-- ==== Sys2Proof/Word.lean ====
section
/-! DEFINITION. The word types of the machine (spec R9, R10, R11, R12): a byte is 8 bits, a selector or 16-bit
register 16 bits, a register or an address 32 bits. -/

namespace Sys2Proof

/-- 8 bits: one byte of memory, an 8-bit register alias, an exception vector. -/
abbrev Byte := BitVec 8

/-- 16 bits: a selector, a 16-bit register alias, a table limit. -/
abbrev Half := BitVec 16

/-- 32 bits: a general register, an offset, a linear or physical address. -/
abbrev Word := BitVec 32

/-- 4 Gbyte: the size of the linear and of the physical address space (R1, R80). -/
abbrev addressSpace : Nat := 2 ^ 32

end Sys2Proof
end

