-- ==== Sys2Proof/Syntax.lean ====
section
/-! DEFINITION. The instructions: one constructor of `Instr` per row of spec/opcode_table.json (R107). Register
numbers that may name a reserved register (CRn, DRn, TRn, Sreg) stay numbers, since a row's pattern admits them and
the row's own rule refuses them (R107, R108 b). -/

namespace Sys2Proof

/-- The eight general registers, in the order of their encoding numbers 0 to 7 (R103, not the figure's order). -/
inductive Reg where
  | eax | ecx | edx | ebx | esp | ebp | esi | edi
deriving DecidableEq, Repr

/-- The eight 8-bit aliases, in the order of their encoding numbers 0 to 7 (R12, R103). -/
inductive Reg8 where
  | al | cl | dl | bl | ah | ch | dh | bh
deriving DecidableEq, Repr

/-- The six segment registers, in the order of their encoding numbers 0 to 5 (R15, R104). -/
inductive SegName where
  | es | cs | ss | ds | fs | gs
deriving DecidableEq, Repr

/-- One constructor per row of spec/opcode_table.json. -/
inductive Instr where
  /-- `PUSHF` (R120). -/
  | pushf
  /-- `POPF` (R121). -/
  | popf
  /-- `IRET` (R122). -/
  | iret
  /-- `JMP ptr16:32` (R123). -/
  | jmpFar (offset : Word) (selector : Half)
  /-- `CALL ptr16:32` (R123). -/
  | callFar (offset : Word) (selector : Half)
  /-- `INT imm8` (R123). -/
  | intImm (vector : Byte)
  /-- `IN AL, imm8` (R124). -/
  | inAlImm (port : Byte)
  /-- `IN EAX, imm8` (R124). -/
  | inEaxImm (port : Byte)
  /-- `OUT imm8, AL` (R124). -/
  | outImmAl (port : Byte)
  /-- `OUT imm8, EAX` (R124). -/
  | outImmEax (port : Byte)
  /-- `IN AL, DX` (R124). -/
  | inAlDx
  /-- `IN EAX, DX` (R124). -/
  | inEaxDx
  /-- `OUT DX, AL` (R124). -/
  | outDxAl
  /-- `OUT DX, EAX` (R124). -/
  | outDxEax
  /-- `MOV r32, CRn` (R140). -/
  | movR32Cr (rd : Reg) (cr : BitVec 3)
  /-- `MOV CRn, r32` (R141). -/
  | movCrR32 (cr : BitVec 3) (rs : Reg)
  /-- `LMSW r16` (R142). -/
  | lmsw (rs : Reg)
  /-- `WAIT` (R144). -/
  | wait
  /-- The coprocessor instruction class, first byte 11011xxx (R145); `x` is the byte's low three bits. -/
  | esc (x : BitVec 3)
  /-- `MOV Sreg, r16` (R169). -/
  | movSegR16 (sreg : BitVec 3) (rs : Reg)
  /-- `MOV r16, Sreg` (R170). -/
  | movR16Seg (rd : Reg) (sreg : BitVec 3)
  /-- `LGDT m16&32` (R161). -/
  | lgdt (disp : Word)
  /-- `SGDT m16&32` (R162). -/
  | sgdt (disp : Word)
  /-- `LIDT m16&32` (R163). -/
  | lidt (disp : Word)
  /-- `SIDT m16&32` (R164). -/
  | sidt (disp : Word)
  /-- `LLDT r16` (R165). -/
  | lldt (rs : Reg)
  /-- `SLDT r16` (R166). -/
  | sldt (rd : Reg)
  /-- `LTR r16` (R167). -/
  | ltr (rs : Reg)
  /-- `STR r16` (R168). -/
  | str (rd : Reg)
  /-- `MOV r32, DRn` (R180). -/
  | movR32Dr (rd : Reg) (dr : BitVec 3)
  /-- `MOV DRn, r32` (R181). -/
  | movDrR32 (dr : BitVec 3) (rs : Reg)
  /-- `MOV r32, TRn` (R182). -/
  | movR32Tr (rd : Reg) (tr : BitVec 3)
  /-- `MOV TRn, r32` (R183). -/
  | movTrR32 (tr : BitVec 3) (rs : Reg)
deriving DecidableEq, Repr

end Sys2Proof
end

