-- ==== Sys2Proof/WellFormed.lean ====
section
/-! DEFINITION. Which instructions name only registers that exist (R104, R108 b and c). An ill-formed instruction has
an encoding and decodes; its meaning refuses it by name, as its rule says. -/

namespace Sys2Proof

/-- CR0, CR2 and CR3 hold state; CR1 is reserved and CR4 to CR7 do not exist (R48, R104, R108 b). -/
def crNumberOk (n : BitVec 3) : Bool := n == 0 || n == 2 || n == 3

/-- DR0 to DR3, DR6 and DR7 hold state; DR4 and DR5 are reserved (R54, R68, R108 b). -/
def drNumberOk (n : BitVec 3) : Bool := !(n == 4 || n == 5)

/-- Of the test registers only TR6 and TR7 exist (R69, R104, R108 b). -/
def trNumberOk (n : BitVec 3) : Bool := n == 6 || n == 7

/-- Segment numbers 6 and 7 do not exist (R104, R108 b). -/
def segNumberOk (n : BitVec 3) : Bool := !(n == 6 || n == 7)

/-- A segment number that `MOV Sreg, r16` may load: CS is not one (R108 c). -/
def segLoadOk (n : BitVec 3) : Bool := segNumberOk n && !(n == 1)

/-- Every register number of the instruction names a register that exists and that the form admits. -/
def Instr.wellFormed : Instr → Bool
  | .movR32Cr _ n | .movCrR32 n _ => crNumberOk n
  | .movR32Dr _ n | .movDrR32 n _ => drNumberOk n
  | .movR32Tr _ n | .movTrR32 n _ => trNumberOk n
  | .movSegR16 n _ => segLoadOk n
  | .movR16Seg _ n => segNumberOk n
  | .pushf | .popf | .iret | .jmpFar _ _ | .callFar _ _ | .intImm _ => true
  | .inAlImm _ | .inEaxImm _ | .outImmAl _ | .outImmEax _ => true
  | .inAlDx | .inEaxDx | .outDxAl | .outDxEax => true
  | .lmsw _ | .wait | .esc _ => true
  | .lgdt _ | .sgdt _ | .lidt _ | .sidt _ => true
  | .lldt _ | .sldt _ | .ltr _ | .str _ => true

end Sys2Proof
end

