-- ==== Sys2Proof/Decode.lean ====
section
/-! DEFINITION. From bytes to instructions and back (30_encoding.md R101 to R108). Instructions are variable length,
so the decoder answers from the bytes fetched so far: an instruction, a rejection by name, or that it needs one more
byte; the fetch of R219 step 3 asks it after every byte. Every bit pattern is the spec's (R107, its GK1). -/

namespace Sys2Proof

/-- Why a byte sequence is no admitted instruction. -/
inductive DecodeError where
  /-- It starts with one of the bytes 66 67 F0 F2 F3 26 2E 36 3E 64 65 (R101). -/
  | prefixByte
  /-- Its ModR/M byte has a shape outside R102: a memory form other than disp32, or a memory form where only a
  register is admitted (R108 d). -/
  | modRMShape
  /-- It matches no row of R107 (R108 a). -/
  | notInSpec
deriving DecidableEq, Repr

/-- What the decoder says of the bytes fetched so far. -/
inductive Decoded where
  | done (i : Instr)
  | more
  | reject (e : DecodeError)
deriving DecidableEq, Repr

/-- The encoding number of a general register (R103). -/
def Reg.num : Reg → BitVec 3
  | .eax => 0 | .ecx => 1 | .edx => 2 | .ebx => 3 | .esp => 4 | .ebp => 5 | .esi => 6 | .edi => 7

/-- The general register a number names (R103). -/
def Reg.ofNum (n : BitVec 3) : Reg :=
  match n.toNat with
  | 0 => .eax | 1 => .ecx | 2 => .edx | 3 => .ebx | 4 => .esp | 5 => .ebp | 6 => .esi | _ => .edi

/-- The segment register a number names; 6 and 7 name none (R104). -/
def SegName.ofNum (n : BitVec 3) : Option SegName :=
  match n.toNat with
  | 0 => some .es | 1 => some .cs | 2 => some .ss | 3 => some .ds | 4 => some .fs | 5 => some .gs | _ => none

/-- `mod` of a ModR/M byte (R102). -/
def modOf (m : Byte) : BitVec 2 := m.extractLsb' 6 2
/-- `reg` of a ModR/M byte (R102). -/
def regOf (m : Byte) : BitVec 3 := m.extractLsb' 3 3
/-- `rm` of a ModR/M byte (R102). -/
def rmOf (m : Byte) : BitVec 3 := m.extractLsb' 0 3
/-- A ModR/M byte from its three fields (R102). -/
def modRM (mod : BitVec 2) (reg rm : BitVec 3) : Byte := mod ++ reg ++ rm

/-- A 32-bit little-endian field (R86, R106): the first byte is the least significant. -/
def word32 (b0 b1 b2 b3 : Byte) : Word := b3 ++ b2 ++ b1 ++ b0
/-- A 16-bit little-endian field (R86, R106). -/
def half16 (b0 b1 : Byte) : Half := b1 ++ b0

/-- The prefix bytes, none of which is admitted (R101). -/
def isPrefixByte (b : Byte) : Bool :=
  [0x66, 0x67, 0xF0, 0xF2, 0xF3, 0x26, 0x2E, 0x36, 0x3E, 0x64, 0x65].contains b.toNat

/-- Format OP_IB: one immediate byte follows the opcode (R105). -/
def decodeImm8 (mk : Byte → Instr) : List Byte → Decoded
  | b :: _ => .done (mk b)
  | [] => .more

/-- Format OP_PTR: offset32 then selector16, little-endian (R105, R106). -/
def decodePtr (mk : Word → Half → Instr) : List Byte → Decoded
  | b0 :: b1 :: b2 :: b3 :: b4 :: b5 :: _ => .done (mk (word32 b0 b1 b2 b3) (half16 b4 b5))
  | _ => .more

/-- The disp32 after the ModR/M byte of format 0F_MODRM_M32 (R105, R106). -/
def decodeDisp (mk : Word → Instr) : List Byte → Decoded
  | b0 :: b1 :: b2 :: b3 :: _ => .done (mk (word32 b0 b1 b2 b3))
  | _ => .more

/-- The register-direct formats: a ModR/M byte with `mod = 11`; any other `mod` is a shape outside R102. -/
def decodeRR (mk : BitVec 3 → Reg → Instr) : List Byte → Decoded
  | m :: _ => if modOf m = 3 then .done (mk (regOf m) (Reg.ofNum (rmOf m))) else .reject .modRMShape
  | [] => .more

/-- `0F 00`: LLDT, SLDT, LTR, STR by `reg`, register form only (R107). -/
def decode0F00 : List Byte → Decoded
  | m :: _ =>
    if modOf m = 3 then
      match (regOf m).toNat with
      | 0 => .done (.sldt (Reg.ofNum (rmOf m)))
      | 1 => .done (.str (Reg.ofNum (rmOf m)))
      | 2 => .done (.lldt (Reg.ofNum (rmOf m)))
      | 3 => .done (.ltr (Reg.ofNum (rmOf m)))
      | _ => .reject .notInSpec
    else .reject .modRMShape
  | [] => .more

/-- `0F 01`: LMSW in register form; SGDT, LGDT, SIDT, LIDT with `mod = 00`, `rm = 101` and a disp32 (R102, R107). -/
def decode0F01 : List Byte → Decoded
  | m :: rest =>
    if modOf m = 3 then
      if regOf m = 6 then .done (.lmsw (Reg.ofNum (rmOf m))) else .reject .notInSpec
    else if modOf m = 0 ∧ rmOf m = 5 then
      match (regOf m).toNat with
      | 0 => decodeDisp .sgdt rest
      | 1 => decodeDisp .sidt rest
      | 2 => decodeDisp .lgdt rest
      | 3 => decodeDisp .lidt rest
      | _ => .reject .notInSpec
    else .reject .modRMShape
  | [] => .more

/-- The two-byte opcodes, after the byte 0F (R107). -/
def decode0F : List Byte → Decoded
  | [] => .more
  | op :: rest =>
    match op.toNat with
    | 0x00 => decode0F00 rest
    | 0x01 => decode0F01 rest
    | 0x20 => decodeRR (fun n r => .movR32Cr r n) rest
    | 0x21 => decodeRR (fun n r => .movR32Dr r n) rest
    | 0x22 => decodeRR (fun n r => .movCrR32 n r) rest
    | 0x23 => decodeRR (fun n r => .movDrR32 n r) rest
    | 0x24 => decodeRR (fun n r => .movR32Tr r n) rest
    | 0x26 => decodeRR (fun n r => .movTrR32 n r) rest
    | _ => .reject .notInSpec

/-- THE DECODER: what the bytes, first fetched first, say (R107, R108). It is total, reads no byte past the
instruction's last, and answers an ESC instruction from its first byte alone, since nothing it can do in this model
depends on its ModR/M byte or its length (R105, R145). -/
def decodeBytes : List Byte → Decoded
  | [] => .more
  | op :: rest =>
    match op.toNat with
    | 0x9C => .done .pushf
    | 0x9D => .done .popf
    | 0xCF => .done .iret
    | 0xEA => decodePtr .jmpFar rest
    | 0x9A => decodePtr .callFar rest
    | 0xCD => decodeImm8 .intImm rest
    | 0xE4 => decodeImm8 .inAlImm rest
    | 0xE5 => decodeImm8 .inEaxImm rest
    | 0xE6 => decodeImm8 .outImmAl rest
    | 0xE7 => decodeImm8 .outImmEax rest
    | 0xEC => .done .inAlDx
    | 0xED => .done .inEaxDx
    | 0xEE => .done .outDxAl
    | 0xEF => .done .outDxEax
    | 0x9B => .done .wait
    | 0x8E => decodeRR (fun n r => .movSegR16 n r) rest
    | 0x8C => decodeRR (fun n r => .movR16Seg r n) rest
    | 0x0F => decode0F rest
    | _ =>
      if op.extractLsb' 3 5 = 0b11011#5 then .done (.esc (op.extractLsb' 0 3))
      else if isPrefixByte op then .reject .prefixByte
      else .reject .notInSpec

/-- The four bytes of a little-endian 32-bit field (R86, R106). -/
def bytes32 (v : Word) : List Byte :=
  [v.extractLsb' 0 8, v.extractLsb' 8 8, v.extractLsb' 16 8, v.extractLsb' 24 8]

/-- The two bytes of a little-endian 16-bit field (R86, R106). -/
def bytes16 (v : Half) : List Byte := [v.extractLsb' 0 8, v.extractLsb' 8 8]

/-- THE ENCODER: the bytes of an instruction, first fetched first, from the same table R107. For ESC only the first
byte is given, since the table gives the others no content. -/
def encode : Instr → List Byte
  | .pushf => [0x9C]
  | .popf => [0x9D]
  | .iret => [0xCF]
  | .jmpFar off sel => 0xEA :: (bytes32 off ++ bytes16 sel)
  | .callFar off sel => 0x9A :: (bytes32 off ++ bytes16 sel)
  | .intImm v => [0xCD, v]
  | .inAlImm p => [0xE4, p]
  | .inEaxImm p => [0xE5, p]
  | .outImmAl p => [0xE6, p]
  | .outImmEax p => [0xE7, p]
  | .inAlDx => [0xEC]
  | .inEaxDx => [0xED]
  | .outDxAl => [0xEE]
  | .outDxEax => [0xEF]
  | .movR32Cr r n => [0x0F, 0x20, modRM 3 n r.num]
  | .movCrR32 n r => [0x0F, 0x22, modRM 3 n r.num]
  | .lmsw r => [0x0F, 0x01, modRM 3 6 r.num]
  | .wait => [0x9B]
  | .esc x => [0b11011#5 ++ x]
  | .movSegR16 n r => [0x8E, modRM 3 n r.num]
  | .movR16Seg r n => [0x8C, modRM 3 n r.num]
  | .lgdt d => 0x0F :: 0x01 :: modRM 0 2 5 :: bytes32 d
  | .sgdt d => 0x0F :: 0x01 :: modRM 0 0 5 :: bytes32 d
  | .lidt d => 0x0F :: 0x01 :: modRM 0 3 5 :: bytes32 d
  | .sidt d => 0x0F :: 0x01 :: modRM 0 1 5 :: bytes32 d
  | .lldt r => [0x0F, 0x00, modRM 3 2 r.num]
  | .sldt r => [0x0F, 0x00, modRM 3 0 r.num]
  | .ltr r => [0x0F, 0x00, modRM 3 3 r.num]
  | .str r => [0x0F, 0x00, modRM 3 1 r.num]
  | .movR32Dr r n => [0x0F, 0x21, modRM 3 n r.num]
  | .movDrR32 n r => [0x0F, 0x23, modRM 3 n r.num]
  | .movR32Tr r n => [0x0F, 0x24, modRM 3 n r.num]
  | .movTrR32 n r => [0x0F, 0x26, modRM 3 n r.num]

/-- The longest admitted instruction has 7 bytes (R109). -/
abbrev longestInstr : Nat := 7

/-- `k` bytes of the number `w`, the most significant first. spec/opcode_table.json numbers an instruction's bits as
one number whose first fetched byte is the most significant (the row of INT has its opcode CD at bits 15 to 8). -/
def tableBytes (w : Nat) : Nat → List Byte
  | 0 => []
  | k + 1 => BitVec.ofNat 8 (w / 256 ^ k) :: tableBytes w k

/-- The bytes, in fetch order, of an instruction of which the table numbers `nbits` bits as `w`; every byte after
them, up to the longest instruction, is 0. -/
def tableWordBytes (nbits w : Nat) : List Byte :=
  let k := (nbits + 7) / 8
  tableBytes w k ++ List.replicate (longestInstr - k) 0

/-- The instruction the decoder reads from the table's word (see `tableWordBytes`). -/
def decodeTableWord (nbits w : Nat) : Option Instr :=
  match decodeBytes (tableWordBytes nbits w) with
  | .done i => some i
  | .more => none
  | .reject _ => none

end Sys2Proof
end

