-- ==== Sys2Proof/Config.lean ====
section
/-! DEFINITION. What an implementation fixes and what the spec leaves open (92_eei_decisions.md section 5): the named
parameters, with the types they are stated over. An `opaque` constant has no body: a claim proved of this model holds
whatever the parameter is. -/

namespace Sys2Proof

/-- The three kinds of access the spec distinguishes (R57, R83). -/
inductive AccessKind where
  | execute | read | write
deriving DecidableEq, Repr

/-- A kind's place in the attribute table. -/
def AccessKind.index : AccessKind → Nat
  | .execute => 0 | .read => 1 | .write => 2

/-- A segment's attributes. The spec gives them no names and no content (R16, its N7): all it says is that they decide,
with the kind of access and CPL, whether the access is allowed (R83, `AttrAllows`). So they are held as exactly that
answer: bit `4 * kind + CPL` says whether the access is allowed. DESIGN CHOICE (log 8). -/
abbrev Attr := BitVec 12

/-- Every kind of access allowed at every CPL: the spec's flat-segment premise for `AttrAllows`. -/
def Attr.allowAll : Attr := 0xFFF

/-- `AttrAllows(attr, kind, CPL)` (R83). -/
def attrAllows (a : Attr) (kind : AccessKind) (cpl : BitVec 2) : Bool :=
  a.getLsbD (4 * kind.index + cpl.toNat)

/-- A segment register with its hidden descriptor register (R15, R16); LDTR and TR have the same shape (R52). -/
structure SegReg where
  sel : Half
  base : Word
  limit : Word
  attr : Attr
deriving DecidableEq, Repr

/-- GDTR or IDTR: 48 bits, base in bits 47:16 and limit in bits 15:0 (R51). -/
structure TableReg where
  base : Word
  limit : Half
deriving DecidableEq, Repr

/-- What a selector is loaded for (R160). -/
inductive SegUse where
  | code | stack | data | ldt | tss
deriving DecidableEq, Repr

/-- The answer of `DescLookup` (R160): the descriptor's contents and the privilege level a code segment gives, or a
fault with a vector. -/
inductive DescResult where
  | ok (base limit : Word) (attr : Attr) (cpl : BitVec 2)
  | fault (vector : Byte)
deriving DecidableEq, Repr, Inhabited

/-- `any_w` of R9: an unconstrained `w`-bit value, the `n`-th one drawn. Free value (log 5). -/
opaque Config.any (w n : Nat) : BitVec w

/-- `IntrPending` (R76): the environment's request at an instruction boundary, by draw number. Free value (log 6). -/
opaque Config.intrPending (n : Nat) : Bool

/-- `DescLookup` (R160): uninterpreted, since the descriptor format is not in the spec. Its memory argument is the view
of the tables at their linear addresses (R95): the byte at each, or none where the lookup can see none. Parameter
(log 7, log 32). -/
opaque Config.descLookup (sel : Half) (use : SegUse) (cpl : BitVec 2) (gdtr : TableReg) (ldtr : SegReg)
  (memory : Word → Option Byte) : DescResult

/-- Which of the translations that the translation buffer leaves open for a page a descriptor lookup takes (R94), by page
and by the number of free values drawn before it. Free value (log 32). -/
opaque Config.tableWalkChoice (page : BitVec 20) (n : Nat) : Nat

/-- `PageWalk` (R84): the physical page number of a linear page, or `none` for a miss; uninterpreted, since the table
formats are not in the spec. It answers the page number only, so that the low 12 bits of the physical address are
those of the linear one, as R84 says. Parameter (log 9). -/
opaque Config.pageWalk (directory page : BitVec 20) (kind : AccessKind) (cpl : BitVec 2)
  (memory : List Host.Cell) : Option (BitVec 20)

/-- `CoprocessorType` (R42): whether the ERROR input at reset says 80387 (true) or 80287. The spec gives no default;
DESIGN CHOICE (log 2). -/
def Config.coprocessorIs387 : Bool := true

/-- `ESC_TRAP_TS` (R145): the value of TS on which a coprocessor instruction traps when MP = 1. The spec's default 1
(90_conflicts.md C5). -/
def Config.escTrapTS : Bool := true

end Sys2Proof
end

