-- ==== Sys2Proof/Machine/State.lean ====
section
/-! DEFINITION. The state of the machine: everything the spec gives it (10_state.md), as plain data, with the reasons a
step can stop and the state after reset. INVENTORY.md's '## State' lists each field with its rule. -/

namespace Sys2Proof.Machine

/-- Why the machine took an exception or an interrupt (R214): the cause held in the terminal state `Trapped`. -/
inductive TrapCause where
  /-- `Exc(n)`: 7, 13, 6, or the vector a selector load's lookup faults with (R160, R200). -/
  | exc (vector : Byte)
  /-- The debug exception (R204 to R206). -/
  | debugException
  /-- A page miss at a linear address (R208). -/
  | pageMiss (addr : Word)
  /-- An external interrupt (R209). -/
  | externalInterrupt
deriving DecidableEq, Repr

/-- Why the machine has no next state. -/
inductive Fault where
  /-- Raised by `step`: the state is `Trapped`, and there is no step from such a state (R214, R219 step 0). Safe: the
  hardware would go on in a handler, of which the spec gives nothing. -/
  | noStepFromTrapped
  /-- Raised by a memory access: the physical address is outside `PhysMem` (R89, U22 'stuck'). Safe. -/
  | outsidePhysMem (addr : Nat)
  /-- Raised by a read of an installed byte to which neither the launch contents nor a store gave a value (log 3).
  Safe: the hardware would read some byte. -/
  | byteNotGiven (addr : Nat)
deriving DecidableEq, Repr

/-- Why the model gives no meaning. Each constructor but the first names a `refuse` of the spec; all are safe: the
hardware may go on where the model stops. -/
inductive Refusal where
  /-- An instruction of the table whose arm has no meaning yet. Raised by exec's arms only. -/
  | notModelled (mnemonic : String)
  /-- Raised by the fetch: the bytes match no row (R108 a). -/
  | notInSpec
  /-- Raised by the fetch: the instruction starts with a prefix byte (R101). -/
  | prefixNotAdmitted
  /-- Raised by the fetch: a ModR/M shape outside R102 (R108 d). -/
  | modRMNotAdmitted
  /-- Raised by the meanings of the MOV forms: a reserved register number, or a load of CS by MOV (R108 b, c). -/
  | reservedRegister
  /-- Raised by JMP ptr16:32, CALL ptr16:32 and INT imm8 (R123). -/
  | controlTransferNotInSource
  /-- Raised by a coprocessor instruction that does not trap (R145). -/
  | coprocessorNotModelled
  /-- Raised by IRET in V86 mode (R122). -/
  | v86IretNotInSource
  /-- Raised by IRET with NT = 1 in PM, a return to another task (R122, R221). -/
  | taskReturnNotModelled
  /-- Raised by IRET that would set VM (R122). -/
  | v86EntryNotModelled
  /-- Raised by IRET to another privilege level (R122). -/
  | interLevelReturnNotModelled
  /-- Raised by a load of CR0 that would set PG with PE = 0 (R141). -/
  | pagingWithoutProtection
  /-- Raised by `step`: an enabled breakpoint is in an undefined configuration (R206, R219 step 2). -/
  | undefinedBreakpoint
  /-- Raised by the fetch: a byte the program has stored to (R93, R219 step 3). -/
  | storedByteFetched
deriving DecidableEq, Repr

/-- The eight general registers (R10). -/
structure Gprs where
  eax : Word
  ecx : Word
  edx : Word
  ebx : Word
  esp : Word
  ebp : Word
  esi : Word
  edi : Word
deriving DecidableEq, Repr

/-- The six segment registers with their descriptor registers (R15, R16). -/
structure SegFile where
  es : SegReg
  cs : SegReg
  ss : SegReg
  ds : SegReg
  fs : SegReg
  gs : SegReg
deriving DecidableEq, Repr

/-- A page's translation as the translation buffer may remember it (R73, R94): what `PageWalk` answered for the page
when it was used, for every kind of access and every CPL, at place `4 * kind + CPL`. -/
structure TlbEntry where
  page : BitVec 20
  results : List (Option (BitVec 20))
deriving DecidableEq, Repr

/-- A range of installed physical addresses. -/
structure Region where
  base : Nat
  size : Nat
deriving DecidableEq, Repr

/-- Memory contents: (physical address, byte) pairs, addresses strictly rising; an address that is not listed has been
given no byte (log 3). -/
abbrev Memory := List Host.Cell

/-- The machine's state. -/
structure State where
  /-- EAX to EDI (R10). -/
  gpr : Gprs
  /-- ES, CS, SS, DS, FS, GS with their descriptor registers (R15, R16). -/
  segs : SegFile
  /-- The instruction pointer, an offset in CS (R19). -/
  eip : Word
  /-- The flags register (R20). -/
  eflags : Word
  /-- CR0: PG, ET, TS, EM, MP, PE (R40). -/
  cr0 : Word
  /-- CR2: the linear address of the last page miss (R49). -/
  cr2 : Word
  /-- CR3 bits 31:12, the only ones held (R50). -/
  cr3 : BitVec 20
  /-- GDTR (R51). -/
  gdtr : TableReg
  /-- IDTR (R51). -/
  idtr : TableReg
  /-- LDTR (R52). -/
  ldtr : SegReg
  /-- TR, the task register (R52). -/
  tr : SegReg
  /-- DR0 to DR3: breakpoint linear addresses (R55). -/
  dr0 : Word
  dr1 : Word
  dr2 : Word
  dr3 : Word
  /-- DR6: debug status (R62). -/
  dr6 : Word
  /-- DR7: debug control (R56). -/
  dr7 : Word
  /-- TR6: test control (R69). -/
  tr6 : Word
  /-- TR7: test status (R69). -/
  tr7 : Word
  /-- The current privilege level in PM (R72). -/
  cpl : BitVec 2
  /-- The translation buffer (R73, R94). -/
  tlb : List TlbEntry
  /-- `Trapped(cause, state)` (R214): `some cause` once an exception or an interrupt has been taken. -/
  trapped : Option TrapCause
  /-- Physical memory contents (R80, R89 `PhysMem`). -/
  mem : Memory
  /-- Which physical addresses exist (R89 `PhysMem`); no instruction changes it. -/
  installed : List Region
  /-- Physical addresses stored to since launch or since the last control transfer, strictly rising (R93). -/
  stored : List Nat
  /-- The environment's `IntrPending` at this and the coming instruction boundaries, as far as given (R76); after the
  last one, `Config.intrPending` answers. The model's own field (log 6). -/
  intrLine : List Bool
  /-- How many free values have been drawn. The model's own field (log 5). -/
  draws : Nat
deriving DecidableEq, Repr

/-- The segment registers but CS after reset: selector 0, base 0, limit FFFF (R77, the 80386 column). -/
def segAtReset : SegReg := ⟨0, 0, 0xFFFF, Attr.allowAll⟩

/-- The state after reset for a given coprocessor type: CR0.EM = 0 and CR0.ET = `CoprocessorType` as R250 says,
everything else from the default `ResetState` of R77 and R251, and where that says 'any', zero (log 1, log 2, log 4). -/
def State.resetWith (coprocessorIs387 : Bool) : State where
  gpr := ⟨0, 0, 0, 0, 0, 0, 0, 0⟩
  segs := ⟨segAtReset, ⟨0xF000, 0xFFFF0000, 0xFFFF, Attr.allowAll⟩, segAtReset, segAtReset, segAtReset, segAtReset⟩
  eip := 0x0000FFF0
  eflags := 0x00000002
  cr0 := if coprocessorIs387 then 0x00000010 else 0x00000000
  cr2 := 0
  cr3 := 0
  gdtr := ⟨0, 0⟩
  idtr := ⟨0, 0x03FF⟩
  ldtr := ⟨0, 0, 0, 0⟩
  tr := ⟨0, 0, 0, 0⟩
  dr0 := 0
  dr1 := 0
  dr2 := 0
  dr3 := 0
  dr6 := 0
  dr7 := 0
  tr6 := 0
  tr7 := 0
  cpl := 0
  tlb := []
  trapped := none
  mem := []
  installed := [⟨0, addressSpace⟩]
  stored := []
  intrLine := []
  draws := 0

/-- The machine right after reset. -/
def State.reset : State := State.resetWith Config.coprocessorIs387

end Sys2Proof.Machine
end

