-- ==== Sys2Proof/Machine/Operands.lean ====
section
/-! DEFINITION. The registers an instruction can name: the general registers and their aliases (R10 to R12), the
segment, control, debug and test registers, and what reading or writing each one does. -/

namespace Sys2Proof.Machine

/-- The content of a general register. -/
def Gprs.get (g : Gprs) : Reg → Word
  | .eax => g.eax | .ecx => g.ecx | .edx => g.edx | .ebx => g.ebx
  | .esp => g.esp | .ebp => g.ebp | .esi => g.esi | .edi => g.edi

/-- The general registers with one of them replaced. -/
def Gprs.set (g : Gprs) (r : Reg) (v : Word) : Gprs :=
  match r with
  | .eax => { g with eax := v } | .ecx => { g with ecx := v }
  | .edx => { g with edx := v } | .ebx => { g with ebx := v }
  | .esp => { g with esp := v } | .ebp => { g with ebp := v }
  | .esi => { g with esi := v } | .edi => { g with edi := v }

/-- `r32[i]` (R10, R103). -/
def State.r32 (s : State) (r : Reg) : Word := s.gpr.get r

/-- `r32[i] <- v`. -/
def State.setR32 (s : State) (r : Reg) (v : Word) : State := { s with gpr := s.gpr.set r v }

/-- `r16[i]`: bits 15:0 of the register (R11). -/
def State.r16 (s : State) (r : Reg) : Half := (s.r32 r).extractLsb' 0 16

/-- A 32-bit value with its bits 15:0 replaced (R11). -/
def withLow16 (old : Word) (v : Half) : Word := old.extractLsb' 16 16 ++ v

/-- `r16[i] <- v`: bits 31:16 keep their value (R11, D32). -/
def State.setR16 (s : State) (r : Reg) (v : Half) : State := s.setR32 r (withLow16 (s.r32 r) v)

/-- The general register an 8-bit alias lies in (R12). -/
def parentOf : Reg8 → Reg
  | .al | .ah => .eax
  | .cl | .ch => .ecx
  | .dl | .dh => .edx
  | .bl | .bh => .ebx

/-- Whether an 8-bit alias is bits 15:8 of its register (R12). -/
def isHighByte : Reg8 → Bool
  | .ah | .ch | .dh | .bh => true
  | .al | .cl | .dl | .bl => false

/-- `r8[i]` (R12). -/
def State.r8 (s : State) (r : Reg8) : Byte :=
  if isHighByte r then (s.r32 (parentOf r)).extractLsb' 8 8 else (s.r32 (parentOf r)).extractLsb' 0 8

/-- A 32-bit value with its bits 7:0, or 15:8, replaced (R12). -/
def withByte (old : Word) (high : Bool) (v : Byte) : Word :=
  if high then old.extractLsb' 16 16 ++ v ++ old.extractLsb' 0 8 else old.extractLsb' 8 24 ++ v

/-- `r8[i] <- v`: the register's other bits keep their value (R12, D32). -/
def State.setR8 (s : State) (r : Reg8) (v : Byte) : State :=
  s.setR32 (parentOf r) (withByte (s.r32 (parentOf r)) (isHighByte r) v)

/-- The content of a segment register and its descriptor register. -/
def SegFile.get (f : SegFile) : SegName → SegReg
  | .es => f.es | .cs => f.cs | .ss => f.ss | .ds => f.ds | .fs => f.fs | .gs => f.gs

/-- The segment registers with one of them replaced. -/
def SegFile.set (f : SegFile) (n : SegName) (v : SegReg) : SegFile :=
  match n with
  | .es => { f with es := v } | .cs => { f with cs := v } | .ss => { f with ss := v }
  | .ds => { f with ds := v } | .fs => { f with fs := v } | .gs => { f with gs := v }

/-- `Seg` with its hidden part (R16). -/
def State.seg (s : State) (n : SegName) : SegReg := s.segs.get n

/-- A segment register replaced. -/
def State.setSeg (s : State) (n : SegName) (v : SegReg) : State := { s with segs := s.segs.set n v }

/-- The implemented bits of CR0 (R47). -/
def cr0Mask : Word := 0x8000001F
/-- The implemented bits of DR6 (R62). -/
def dr6Mask : Word := 0x0000E00F
/-- The implemented bits of DR7 (R56). -/
def dr7Mask : Word := 0xFFFF03FF

/-- CR0.PE (R46). -/
def State.pe (s : State) : Bool := s.cr0.getLsbD 0
/-- CR0.MP (R45). -/
def State.mp (s : State) : Bool := s.cr0.getLsbD 1
/-- CR0.EM (R44). -/
def State.em (s : State) : Bool := s.cr0.getLsbD 2
/-- CR0.TS (R43). -/
def State.ts (s : State) : Bool := s.cr0.getLsbD 3
/-- CR0.ET (R42). -/
def State.et (s : State) : Bool := s.cr0.getLsbD 4
/-- CR0.PG (R41). -/
def State.pg (s : State) : Bool := s.cr0.getLsbD 31

/-- The address in DRn, n in 0 to 3 (R55); the numbers above 3 name no breakpoint and read 0 here. -/
def State.breakAddr (s : State) (n : Nat) : Word :=
  match n with
  | 0 => s.dr0 | 1 => s.dr1 | 2 => s.dr2 | 3 => s.dr3 | _ => 0

/-- What a store of a debug register reads (R180); DR4 and DR5 hold no state (R68). -/
def State.readDr (s : State) (n : BitVec 3) : Option Word :=
  match n.toNat with
  | 0 => some s.dr0 | 1 => some s.dr1 | 2 => some s.dr2 | 3 => some s.dr3
  | 6 => some (s.dr6 &&& dr6Mask) | 7 => some (s.dr7 &&& dr7Mask)
  | _ => none

/-- What a load of a debug register writes (R181): the zero bits of DR6 and DR7 ignore it. -/
def State.writeDr (s : State) (n : BitVec 3) (v : Word) : Option State :=
  match n.toNat with
  | 0 => some { s with dr0 := v } | 1 => some { s with dr1 := v }
  | 2 => some { s with dr2 := v } | 3 => some { s with dr3 := v }
  | 6 => some { s with dr6 := v &&& dr6Mask } | 7 => some { s with dr7 := v &&& dr7Mask }
  | _ => none

/-- What a store of a test register reads: plain storage (R69, R182); only TR6 and TR7 exist. -/
def State.readTr (s : State) (n : BitVec 3) : Option Word :=
  match n.toNat with
  | 6 => some s.tr6 | 7 => some s.tr7 | _ => none

/-- What a load of a test register writes: plain storage (R69, R183). -/
def State.writeTr (s : State) (n : BitVec 3) (v : Word) : Option State :=
  match n.toNat with
  | 6 => some { s with tr6 := v } | 7 => some { s with tr7 := v } | _ => none

end Sys2Proof.Machine
end

