-- ==== Sys2Proof/Machine/Flags.lean ====
section
/-! DEFINITION. EFLAGS: its layout (R20 to R25), the six status flag functions (R26, R30 to R34, R192), the images that
PUSHF, an interrupt and a task switch store, and what POPF and IRET load. -/

namespace Sys2Proof.Machine

/-- The bits of EFLAGS that can ever be 1 (R21). -/
def eflagsMask : Word := 0x00037FD7

/-- CF, PF, AF, ZF, SF, TF, DF, OF, NT and RF: the bits that POPF and IRET load whatever the privilege (R121). -/
def popAlwaysMask : Word := 0x00014DD5
/-- EFLAGS.IF, bit 9 (R28). -/
def ifMask : Word := 0x00000200
/-- EFLAGS.IOPL, bits 13:12 (R25). -/
def ioplMask : Word := 0x00003000
/-- EFLAGS.RF, bit 16 (R23). -/
def rfMask : Word := 0x00010000
/-- EFLAGS.VM, bit 17 (R22). -/
def vmMask : Word := 0x00020000
/-- EFLAGS.NT, bit 14 (R24). -/
def ntMask : Word := 0x00004000

/-- EFLAGS.CF, bit 0 (R34). -/
def State.cf (s : State) : Bool := s.eflags.getLsbD 0
/-- EFLAGS.PF, bit 2 (R33). -/
def State.pf (s : State) : Bool := s.eflags.getLsbD 2
/-- EFLAGS.AF, bit 4 (R32). -/
def State.af (s : State) : Bool := s.eflags.getLsbD 4
/-- EFLAGS.ZF, bit 6 (R31). -/
def State.zf (s : State) : Bool := s.eflags.getLsbD 6
/-- EFLAGS.SF, bit 7 (R30). -/
def State.sf (s : State) : Bool := s.eflags.getLsbD 7
/-- EFLAGS.TF, bit 8 (R29). -/
def State.tf (s : State) : Bool := s.eflags.getLsbD 8
/-- EFLAGS.IF, bit 9 (R28). -/
def State.ifl (s : State) : Bool := s.eflags.getLsbD 9
/-- EFLAGS.DF, bit 10 (R27). -/
def State.df (s : State) : Bool := s.eflags.getLsbD 10
/-- EFLAGS.OF, bit 11 (R26). -/
def State.ofl (s : State) : Bool := s.eflags.getLsbD 11
/-- EFLAGS.IOPL, bits 13:12 (R25). -/
def State.iopl (s : State) : BitVec 2 := s.eflags.extractLsb' 12 2
/-- EFLAGS.NT, bit 14 (R24). -/
def State.nt (s : State) : Bool := s.eflags.getLsbD 14
/-- EFLAGS.RF, bit 16 (R23). -/
def State.rf (s : State) : Bool := s.eflags.getLsbD 16
/-- EFLAGS.VM, bit 17 (R22). -/
def State.vm (s : State) : Bool := s.eflags.getLsbD 17

/-- The bits `m` of `old` replaced by those of `new`. -/
def mergeBits (old new m : Word) : Word := (old &&& ~~~m) ||| (new &&& m)

/-- The six status flags of a result. -/
structure StatusFlags where
  cf : Bool
  pf : Bool
  af : Bool
  zf : Bool
  sf : Bool
  of : Bool
deriving DecidableEq, Repr

/-- PF: whether the low byte of a result has an even number of ones (R33). -/
def parityEven (low : Byte) : Bool :=
  !(low.getLsbD 0 ^^ low.getLsbD 1 ^^ low.getLsbD 2 ^^ low.getLsbD 3 ^^
    low.getLsbD 4 ^^ low.getLsbD 5 ^^ low.getLsbD 6 ^^ low.getLsbD 7)

/-- `a + b + cin` modulo `2 ^ n` (R26, R34). -/
def addResult {n : Nat} (a b : BitVec n) (cin : Bool) : BitVec n := a + b + BitVec.ofNat n cin.toNat

/-- The flags of an `n`-bit addition (R26, R30 to R34, R192). -/
def addFlags {n : Nat} (a b : BitVec n) (cin : Bool) : StatusFlags :=
  let r := addResult a b cin
  { cf := decide (a.toNat + b.toNat + cin.toNat ≥ 2 ^ n)
    pf := parityEven (r.setWidth 8)
    af := decide (a.toNat % 16 + b.toNat % 16 + cin.toNat > 15)
    zf := decide (r = 0)
    sf := r.msb
    of := (a.msb == b.msb) && !(r.msb == a.msb) }

/-- `a - b - bin` modulo `2 ^ n` (R26, R34). -/
def subResult {n : Nat} (a b : BitVec n) (bin : Bool) : BitVec n := a - b - BitVec.ofNat n bin.toNat

/-- The flags of an `n`-bit subtraction (R26, R30 to R34). -/
def subFlags {n : Nat} (a b : BitVec n) (bin : Bool) : StatusFlags :=
  let r := subResult a b bin
  { cf := decide (a.toNat < b.toNat + bin.toNat)
    pf := parityEven (r.setWidth 8)
    af := decide (a.toNat % 16 < b.toNat % 16 + bin.toNat)
    zf := decide (r = 0)
    sf := r.msb
    of := !(a.msb == b.msb) && !(r.msb == a.msb) }

/-- The status flags at their places in EFLAGS (R20). -/
def StatusFlags.bits (f : StatusFlags) : Word :=
  BitVec.ofNat 32 (f.cf.toNat + 4 * f.pf.toNat + 16 * f.af.toNat + 64 * f.zf.toNat + 128 * f.sf.toNat
    + 2048 * f.of.toNat)

/-- EFLAGS with its six status flags replaced (R20). -/
def withStatusFlags (eflags : Word) (f : StatusFlags) : Word := mergeBits eflags f.bits 0x000008D5

/-- The image PUSHF stores (R120): VM as 0, bit 1 as 1, RF as 0 when RF = 0 and the free bit `rf` when RF = 1. -/
def pushfImage (eflags : Word) (rf : BitVec 1) : Word :=
  let base := (eflags &&& eflagsMask &&& ~~~vmMask &&& ~~~rfMask) ||| 2
  if eflags.getLsbD 16 && rf.getLsbD 0 then base ||| rfMask else base

/-- The bits of EFLAGS that POPF and IRET load at privilege level `cpl`: IF only where `cpl` is at most the old IOPL,
IOPL only at level 0, VM never (R25, R121, R122). -/
def popMask (cpl oldIopl : BitVec 2) : Word :=
  popAlwaysMask ||| (if cpl ≤ oldIopl then ifMask else 0) ||| (if cpl = 0 then ioplMask else 0)

/-- EFLAGS after POPF or IRET has loaded `image` at privilege level `cpl` (R121, R122). -/
def popFlags (old image : Word) (cpl : BitVec 2) : Word :=
  mergeBits old image (popMask cpl (old.extractLsb' 12 2))

/-- The image of EFLAGS that an interrupt, an exception or a task switch saves: VM shows (R215). -/
def savedFlagsImage (eflags : Word) : Word := (eflags &&& eflagsMask) ||| 2

end Sys2Proof.Machine
end

