-- ==== Sys2Proof/Machine/Access.lean ====
section
/-! DEFINITION. Modes and privilege (R2, R72), and the register availability table (R70, R71, R143, R171, R184, R203). -/

namespace Sys2Proof.Machine

/-- Real address mode, protected mode, virtual 8086 mode (R2). -/
inductive Mode where
  | rm | pm | v86
deriving DecidableEq, Repr

/-- The mode is a function of CR0.PE and EFLAGS.VM (R2, R217). -/
def State.mode (s : State) : Mode :=
  if s.pe then (if s.vm then .v86 else .pm) else .rm

/-- CPL: 0 in RM, 3 in V86, in PM the state component (R72). -/
def State.curCpl (s : State) : BitVec 2 :=
  match s.mode with
  | .rm => 0
  | .pm => s.cpl
  | .v86 => 3

/-- The rows of the availability table (R70). -/
inductive RegGroup where
  | general | segment | flags | control | gdtr | idtr | ldtr | tr | debug | test
deriving DecidableEq, Repr

/-- The columns' two directions: load is a write of the register, store a read of it (R70). -/
inductive Direction where
  | load | store
deriving DecidableEq, Repr

/-- A cell of the table (R70). -/
inductive Cell where
  | yes | no | level0 | byIopl
deriving DecidableEq, Repr

/-- The table, cell for cell as printed (R70). -/
def accessCell : RegGroup → Mode → Direction → Cell
  | .general, _, _ => .yes
  | .segment, _, _ => .yes
  | .flags, .v86, _ => .byIopl
  | .flags, _, _ => .yes
  | .control, .rm, _ => .yes
  | .control, .pm, _ => .level0
  | .control, .v86, .load => .no
  | .control, .v86, .store => .yes
  | .gdtr, .rm, _ => .yes
  | .gdtr, .pm, .load => .level0
  | .gdtr, .pm, .store => .yes
  | .gdtr, .v86, .load => .no
  | .gdtr, .v86, .store => .yes
  | .idtr, .rm, _ => .yes
  | .idtr, .pm, .load => .level0
  | .idtr, .pm, .store => .yes
  | .idtr, .v86, .load => .no
  | .idtr, .v86, .store => .yes
  | .ldtr, .rm, _ => .no
  | .ldtr, .pm, .load => .level0
  | .ldtr, .pm, .store => .yes
  | .ldtr, .v86, _ => .no
  | .tr, .rm, _ => .no
  | .tr, .pm, .load => .level0
  | .tr, .pm, .store => .yes
  | .tr, .v86, _ => .no
  | .debug, .rm, _ => .yes
  | .debug, .pm, _ => .level0
  | .debug, .v86, _ => .no
  | .test, .rm, .load => .yes
  | .test, .rm, .store => .level0
  | .test, .pm, _ => .level0
  | .test, .v86, _ => .no

/-- Whether a cell allows the access at a privilege level and IOPL (R70, R71). -/
def Cell.allows (c : Cell) (cpl iopl : BitVec 2) : Bool :=
  match c with
  | .yes => true
  | .no => false
  | .level0 => cpl == 0
  | .byIopl => iopl == 3

/-- `Access(group, mode, dir, CPL)` in the state (R70). -/
def State.allowed (s : State) (g : RegGroup) (d : Direction) : Bool :=
  (accessCell g s.mode d).allows s.curCpl s.iopl

/-- The exception a denied access raises: 13 in PM and V86, 6 in RM (R203). -/
def deniedCause (m : Mode) : TrapCause :=
  match m with
  | .rm => .exc 6
  | .pm => .exc 13
  | .v86 => .exc 13

end Sys2Proof.Machine
end

