-- ==== Sys2Proof/Machine/Memory.lean ====
section
/-! DEFINITION. Physical memory as a sorted list (R80, R89), the record of stored bytes (R93), and the byte order of a
multi-byte access, fixed here once (R86). -/

namespace Sys2Proof.Machine

/-- The byte given to an address, if any. What an unlisted address reads as: no byte (log 3). -/
def Memory.byteAt : Memory → Nat → Option Byte
  | [], _ => none
  | (a, b) :: rest, x => if x = a then some b else Memory.byteAt rest x

/-- Memory with one byte written; the list stays sorted. -/
def Memory.setByte : Memory → Nat → Byte → Memory
  | [], x, v => [(x, v)]
  | (a, b) :: rest, x, v =>
    if x < a then (x, v) :: (a, b) :: rest
    else if x = a then (a, v) :: rest
    else (a, b) :: Memory.setByte rest x v

/-- Memory with bytes written one after another, each at its own address. -/
def Memory.setBytes : Memory → List Nat → List Byte → Memory
  | m, a :: as, b :: bs => Memory.setBytes (Memory.setByte m a b) as bs
  | m, [], _ => m
  | m, _ :: _, [] => m

/-- Whether every listed address is above a bound. -/
def Memory.allAbove (lo : Nat) (m : Memory) : Bool := m.all (fun c => decide (lo < c.1))

/-- The canonical form: addresses strictly rising and inside the 4 Gbyte space. -/
def Memory.wf : Memory → Bool
  | [] => true
  | (a, _) :: rest => decide (a < addressSpace) && Memory.allAbove a rest && Memory.wf rest

/-- An address added to the stored-to record, which stays strictly rising. -/
def addAddr : List Nat → Nat → List Nat
  | [], x => [x]
  | a :: rest, x => if x < a then x :: a :: rest else if x = a then a :: rest else a :: addAddr rest x

/-- Addresses added one after another. -/
def addAddrs : List Nat → List Nat → List Nat
  | l, [] => l
  | l, x :: xs => addAddrs (addAddr l x) xs

/-- The stored-to record's canonical form. -/
def storedWf : List Nat → Bool
  | [] => true
  | a :: rest => decide (a < addressSpace) && rest.all (fun x => decide (a < x)) && storedWf rest

/-- A region holds an address. -/
def Region.has (r : Region) (a : Nat) : Bool := decide (r.base ≤ a) && decide (a < r.base + r.size)

/-- `PhysMem` has the address (R89). -/
def State.isInstalled (s : State) (a : Nat) : Bool := s.installed.any (fun r => r.has a)

/-- The number a list of bytes holds, the first byte least significant (R86). -/
def fromBytesLE : List Byte → Nat
  | [] => 0
  | b :: rest => b.toNat + 256 * fromBytesLE rest

/-- The `n` low bytes of a number, the least significant first (R86). -/
def toBytesLE (v : Nat) : Nat → List Byte
  | 0 => []
  | n + 1 => BitVec.ofNat 8 v :: toBytesLE (v / 256) n

end Sys2Proof.Machine
end

