-- ==== Sys2Proof/Machine/Ops.lean ====
section
/-! DEFINITION. The operations the meanings share: taking an exception (R214), finishing an instruction (R19, R23),
segmentation (R81 to R83), paging with the translation buffer (R84, R94), memory access (R86 to R89), the stack (R96,
R120), selector loads (R160), privilege checks (R203), string stepping (R125). -/

namespace Sys2Proof.Machine

/-- What one instruction or one step answers. -/
abbrev Outcome := Host.Outcome State Fault Refusal

/-- Why an operation does not answer: it raises an exception, has no step, or has no meaning. -/
inductive Halt where
  | raise (c : TrapCause)
  | fault (f : Fault)
  | refuse (r : Refusal)
deriving DecidableEq, Repr

/-- An operation that answers `α` or halts. -/
abbrev Op (α : Type) := Except Halt α

/-- TAKING AN EXCEPTION OR INTERRUPT (R214): the run ends in `Trapped(cause, state)`. For a fault the state is that
before the instruction, except that a page miss leaves its address in CR2 (R208); what else the cause records (DR6) is
written before this is called (R211 a). The spec gives no handler entry. -/
def State.takeException (s : State) (c : TrapCause) : State :=
  match c with
  | .pageMiss a => { s with trapped := some c, cr2 := a }
  | .exc _ => { s with trapped := some c }
  | .debugException => { s with trapped := some c }
  | .externalInterrupt => { s with trapped := some c }

/-- The outcome of an instruction, from the state it started in and what its operations answered. A raised exception
discards every state change the instruction made (R9, R214, R220), the pages its accesses added to the translation
buffer among them (log 46). -/
def conclude (s : State) (r : Op State) : Outcome :=
  match r with
  | .ok t => .next t
  | .error (.raise c) => .next (s.takeException c)
  | .error (.fault f) => .fault f
  | .error (.refuse x) => .refused x

/-- Successful completion of an instruction of `n` bytes that does not write EIP: EIP moves past it and RF is cleared
(R19, R23 b, R219 step 5). -/
def State.retire (s : State) (n : Nat) : State :=
  { s with eip := s.eip + BitVec.ofNat 32 n, eflags := s.eflags &&& ~~~rfMask }

/-- Successful completion of POPF: EIP moves on and RF keeps what the image gave (R23 c, R121). -/
def State.retireKeepRf (s : State) (n : Nat) : State := { s with eip := s.eip + BitVec.ofNat 32 n }

/-- The state after one free value has been drawn (R9). -/
def State.draw (s : State) : State := { s with draws := s.draws + 1 }

/-- The next free value, `any_w` (R9). -/
def State.anyBits (s : State) (w : Nat) : BitVec w := Config.any w s.draws

/-- The check that precedes a special register access (R203). -/
def requireAccess (s : State) (g : RegGroup) (d : Direction) : Op Unit :=
  if s.allowed g d then .ok () else .error (.raise (deniedCause s.mode))

/-- Bounds and attribute check of an access of `n` bytes at offset `off` of a segment, on natural numbers without wrap
(R82, R83). -/
def checkSeg (s : State) (seg : SegReg) (off n : Nat) (kind : AccessKind) : Op Unit :=
  if off + n ≤ seg.limit.toNat + 1 ∧ attrAllows seg.attr kind s.curCpl then .ok ()
  else .error (.raise (.exc 13))

/-- The linear address of an offset in a segment, modulo 2 ^ 32 (R81). -/
def linearAddr (seg : SegReg) (off : Word) : Word := seg.base + off

/-- Whether linear addresses are translated: PG = 1, and PG has effect only in PM (R41, R84). -/
def State.pagingOn (s : State) : Bool := s.pg && s.pe

/-- Every kind of access at every CPL, in the order of `TlbEntry.results`. -/
def walkRequests : List (AccessKind × BitVec 2) :=
  [(.execute, 0), (.execute, 1), (.execute, 2), (.execute, 3), (.read, 0), (.read, 1), (.read, 2), (.read, 3),
   (.write, 0), (.write, 1), (.write, 2), (.write, 3)]

/-- What `PageWalk` answers for a page from the tables as they are in memory now (R84). -/
def State.walk (s : State) (page : BitVec 20) (kind : AccessKind) (cpl : BitVec 2) : Option (BitVec 20) :=
  Config.pageWalk s.cr3 page kind cpl s.mem

/-- What the translation buffer remembers of a page used now. -/
def State.tlbEntryNow (s : State) (page : BitVec 20) : TlbEntry :=
  ⟨page, walkRequests.map (fun q => s.walk page q.1 q.2)⟩

/-- The earlier answers for a page that the translation buffer holds and that differ from the tables' answer now. -/
def State.staleWalks (s : State) (page : BitVec 20) (kind : AccessKind) (cpl : BitVec 2) :
    List (Option (BitVec 20)) :=
  ((s.tlb.filter (fun e => e.page == page)).map
    (fun e => e.results.getD (4 * kind.index + cpl.toNat) none)).filter (fun r => r != s.walk page kind cpl)

/-- The translation of a page: what the tables say now, or, while the translation buffer holds other answers for the
page since the last CR3 write, the new or an old one as `choice` has it (R84, R94). -/
def State.pickWalk (s : State) (page : BitVec 20) (kind : AccessKind) (cpl : BitVec 2) (choice : Nat) :
    Option (BitVec 20) :=
  match s.staleWalks page kind cpl with
  | [] => s.walk page kind cpl
  | o :: os => (s.walk page kind cpl :: o :: os).getD (choice % (os.length + 2)) (s.walk page kind cpl)

/-- The translation of a page for an access, by a free choice where R94 leaves one open. -/
def State.pageResult (s : State) (page : BitVec 20) (kind : AccessKind) (cpl : BitVec 2) :
    Option (BitVec 20) × State :=
  (s.pickWalk page kind cpl (s.anyBits 32).toNat, if (s.staleWalks page kind cpl).isEmpty then s else s.draw)

/-- The translation buffer after a use of a page. -/
def State.rememberPage (s : State) (page : BitVec 20) : State :=
  if s.tlb.contains (s.tlbEntryNow page) then s else { s with tlb := s.tlbEntryNow page :: s.tlb }

/-- `phys(linear)` (R84): the same address with paging off, else the page's translation with the offset kept, or a
page miss (R208). -/
def translate (s : State) (kind : AccessKind) (lin : Word) : Op (Word × State) :=
  if s.pagingOn then
    match s.pageResult (lin.extractLsb' 12 20) kind s.curCpl with
    | (some frame, s1) => .ok (frame ++ lin.extractLsb' 0 12, s1.rememberPage (lin.extractLsb' 12 20))
    | (none, _) => .error (.raise (.pageMiss lin))
  else .ok (lin, s)

/-- The physical addresses of `n` bytes from a linear address on, in ascending order, each translated separately; the
first that misses is the one reported (R87, R208). -/
def translateRange (s : State) (kind : AccessKind) (lin : Word) : Nat → Op (List Nat × State)
  | 0 => .ok ([], s)
  | n + 1 => do
    let (p, s1) ← translate s kind lin
    let (ps, s2) ← translateRange s1 kind (lin + 1) n
    .ok (p.toNat :: ps, s2)

/-- One byte of physical memory (R89): no step outside `PhysMem`, none where no byte was given (log 3). -/
def readPhys (s : State) (a : Nat) : Op Byte :=
  if s.isInstalled a then
    match s.mem.byteAt a with
    | some b => .ok b
    | none => .error (.fault (.byteNotGiven a))
  else .error (.fault (.outsidePhysMem a))

/-- Bytes of physical memory, in order. -/
def readPhysList (s : State) : List Nat → Op (List Byte)
  | [] => .ok []
  | a :: as => do
    let b ← readPhys s a
    let bs ← readPhysList s as
    .ok (b :: bs)

/-- Whether every address is in `PhysMem`; the first that is not has no step (R89). -/
def requireInstalled (s : State) : List Nat → Op Unit
  | [] => .ok ()
  | a :: as => if s.isInstalled a then requireInstalled s as else .error (.fault (.outsidePhysMem a))

/-- `MemRead` of `n` bytes at an offset of a segment, with the checks (R81 to R87): the bytes in ascending order. Every
byte is translated before any is read, so that a page miss of a later byte comes before an earlier byte outside
`PhysMem`, an order the spec does not give: DESIGN CHOICE (log 45). -/
def memRead (s : State) (n : SegName) (off : Word) (count : Nat) : Op (List Byte × State) := do
  checkSeg s (s.seg n) off.toNat count .read
  let (ps, s1) ← translateRange s .read (linearAddr (s.seg n) off) count
  let bs ← readPhysList s1 ps
  .ok (bs, s1)

/-- Memory with bytes stored at physical addresses, and the addresses recorded (R93). -/
def State.storePhys (s : State) (ps : List Nat) (bs : List Byte) : State :=
  { s with mem := s.mem.setBytes ps bs, stored := addAddrs s.stored ps }

/-- `MemWrite` of bytes at an offset of a segment, with the checks (R81 to R87). Every byte is checked and translated
before any is stored, so an access that faults changes no memory (R88). Every byte is translated before `PhysMem` is
asked about any, as in `memRead`: DESIGN CHOICE (log 45). -/
def memWrite (s : State) (n : SegName) (off : Word) (bs : List Byte) : Op State := do
  checkSeg s (s.seg n) off.toNat bs.length .write
  let (ps, s1) ← translateRange s .write (linearAddr (s.seg n) off) bs.length
  requireInstalled s1 ps
  .ok (s1.storePhys ps bs)

/-- `Push32` (R120): ESP goes down by 4 and the value is stored there. -/
def push32 (s : State) (v : Word) : Op State := do
  let newEsp := s.r32 .esp - 4
  let s1 ← memWrite s .ss newEsp (toBytesLE v.toNat 4)
  .ok (s1.setR32 .esp newEsp)

/-- `Pop32` (R120): the value at ESP is read and ESP goes up by 4. -/
def pop32 (s : State) : Op (Word × State) := do
  let (bs, s1) ← memRead s .ss (s.r32 .esp) 4
  .ok (BitVec.ofNat 32 (fromBytesLE bs), s1.setR32 .esp (s.r32 .esp + 4))

/-- Whether a table occupies a linear address: base to base + limit (R95). A table that passes linear address FFFFFFFF
goes on at 0, which the spec does not say: DESIGN CHOICE (log 32). -/
def inTable (base limit a : Word) : Bool := decide ((a - base).toNat ≤ limit.toNat)

/-- Whether a linear address lies in a table that GDTR or LDTR locates (R95, R160). -/
def State.inDescTables (s : State) (a : Word) : Bool :=
  inTable s.gdtr.base (s.gdtr.limit.setWidth 32) a || inTable s.ldtr.base s.ldtr.limit a

/-- The translation that a descriptor lookup takes for a page: a read at the current CPL, with a free choice for each
page where R94 leaves one open (R84, log 32). -/
def State.tablePage (s : State) (page : BitVec 20) : Option (BitVec 20) :=
  s.pickWalk page .read s.curCpl (Config.tableWalkChoice page s.draws)

/-- The physical address at which a descriptor lookup finds a linear address, if its page is mapped (R84). -/
def State.tableAddr (s : State) (a : Word) : Option Word :=
  if s.pagingOn then (s.tablePage (a.extractLsb' 12 20)).map (fun frame => frame ++ a.extractLsb' 0 12) else some a

/-- The byte a descriptor lookup finds at a linear address: none where the page is not mapped, outside `PhysMem`, or
where no byte was given (log 32). -/
def State.tableByte (s : State) (a : Word) : Option Byte :=
  match s.tableAddr a with
  | some p => if s.isInstalled p.toNat then s.mem.byteAt p.toNat else none
  | none => none

/-- The memory a descriptor lookup depends on: the bytes at the linear addresses of the tables that GDTR and LDTR locate
and no others (R95, R160). -/
def State.descMemory (s : State) : Word → Option Byte := fun a => if s.inDescTables a then s.tableByte a else none

/-- `DescLookup` in the state (R160). -/
def State.lookup (s : State) (sel : Half) (use : SegUse) : DescResult :=
  Config.descLookup sel use s.curCpl s.gdtr s.ldtr s.descMemory

/-- The linear pages a table has a byte in (R95). -/
def tablePages (base limit : Word) : List (BitVec 20) :=
  (List.range ((base.toNat % 4096 + limit.toNat) / 4096 + 1)).map (fun k => base.extractLsb' 12 20 + BitVec.ofNat 20 k)

/-- The translation buffer after a use of pages. -/
def State.rememberPages (s : State) : List (BitVec 20) → State
  | [] => s
  | p :: ps => (s.rememberPage p).rememberPages ps

/-- The state after a descriptor lookup: with paging on, every page of the two tables that it could read counts as used
(R94, log 32). -/
def State.afterLookup (s : State) : State :=
  if s.pagingOn then
    s.rememberPages ((tablePages s.gdtr.base (s.gdtr.limit.setWidth 32) ++ tablePages s.ldtr.base s.ldtr.limit).filter
      (fun p => (s.tablePage p).isSome))
  else s

/-- A segment register loaded as on the 8086: base = selector * 16, limit FFFF; the attributes stay (R18, R160). -/
def load8086 (old : SegReg) (sel : Half) : SegReg :=
  { old with sel := sel, base := sel.setWidth 32 <<< 4, limit := 0x0000FFFF }

/-- `LoadSeg` and `LoadCS` (R160): the segment register's new content, the CPL a code segment gives, and the state after
the lookup. -/
def loadSelector (s : State) (old : SegReg) (sel : Half) (use : SegUse) : Op (SegReg × BitVec 2 × State) :=
  match s.mode with
  | .rm => .ok (load8086 old sel, 0, s)
  | .v86 => .ok (load8086 old sel, 3, s)
  | .pm =>
    match s.lookup sel use with
    | .ok b l a c => .ok (⟨sel, b, l, a⟩, c, s.afterLookup)
    | .fault v => .error (.raise (.exc v))

/-- GDTR or IDTR from its 6-byte memory image: limit in bytes 0 and 1, base in bytes 2 to 5 (R51, R106, R161). -/
def tableFromImage (bs : List Byte) : TableReg :=
  ⟨BitVec.ofNat 32 (fromBytesLE (bs.drop 2)), BitVec.ofNat 16 (fromBytesLE (bs.take 2))⟩

/-- The 6-byte memory image of GDTR or IDTR (R106, R162). -/
def tableImage (t : TableReg) : List Byte := toBytesLE t.limit.toNat 2 ++ toBytesLE t.base.toNat 4

/-- The index step after one element of `size` bytes of a string operation: up when DF = 0, down when DF = 1 (R27,
R125). -/
def stringIndex (df : Bool) (size : Nat) (v : Word) : Word :=
  if df then v - BitVec.ofNat 32 size else v + BitVec.ofNat 32 size

/-- The index update of a string operation that uses ESI, EDI or both (R125). No instruction of the table is a string
operation; the spec gives the class this one rule. -/
def State.stringStep (s : State) (size : Nat) (usesEsi usesEdi : Bool) : State :=
  { s with gpr :=
      { s.gpr with
        esi := if usesEsi then stringIndex s.df size s.gpr.esi else s.gpr.esi
        edi := if usesEdi then stringIndex s.df size s.gpr.edi else s.gpr.edi } }

end Sys2Proof.Machine
end

