-- ==== Sys2Proof/Machine/Control.lean ====
section
/-! DEFINITION. The control register instructions (41_control_register_instructions.md R140 to R145). -/

namespace Sys2Proof.Machine

/-- What a store of control register `n` reads, with the state after the draw that a read of CR3 makes: CR0 with bits
30:5 as 0, CR2, CR3 with free low bits; `none` for a reserved number (R47, R48, R50, R140). -/
def readCr (s : State) (n : BitVec 3) : Option (Word × State) :=
  match n.toNat with
  | 0 => some (s.cr0 &&& cr0Mask, s)
  | 2 => some (s.cr2, s)
  | 3 => some (s.cr3 ++ s.anyBits 12, s.draw)
  | _ => none

/-- MOV r32, CRn (R140). -/
def execMovR32Cr (rd : Reg) (cr : BitVec 3) (s : State) : Outcome :=
  conclude s
    (match readCr s cr with
    | none => .error (.refuse .reservedRegister)
    | some (v, s1) => do
      requireAccess s .control .store
      .ok ((s1.setR32 rd v).retire 3))

/-- A load of CR0: PG, ET, TS, EM, MP and PE are writable, bits 30:5 ignored, PG without PE refused (R141). -/
def loadCr0 (s : State) (v : Word) : Op State :=
  if v.getLsbD 31 ∧ ¬ v.getLsbD 0 then .error (.refuse .pagingWithoutProtection)
  else .ok { s with cr0 := v &&& cr0Mask }

/-- What a load of control register `n` does; `none` for a reserved number. A load of CR3 empties the translation
buffer (R94, R141). -/
def writeCr (s : State) (n : BitVec 3) (v : Word) : Option (Op State) :=
  match n.toNat with
  | 0 => some (loadCr0 s v)
  | 2 => some (.ok { s with cr2 := v })
  | 3 => some (.ok { s with cr3 := v.extractLsb' 12 20, tlb := [] })
  | _ => none

/-- MOV CRn, r32 (R141). -/
def execMovCrR32 (cr : BitVec 3) (rs : Reg) (s : State) : Outcome :=
  conclude s
    (match writeCr s cr (s.r32 rs) with
    | none => .error (.refuse .reservedRegister)
    | some w => do
      requireAccess s .control .load
      let s1 ← w
      .ok (s1.retire 3))

/-- CR0 after LMSW: MP, EM and TS from bits 1 to 3 of the operand, PE set but never cleared, the rest kept (R142). -/
def lmswCr0 (cr0 : Word) (src : Half) : Word :=
  mergeBits cr0 (src.setWidth 32 ||| (cr0 &&& 1)) 0xF

/-- LMSW r16 (R142). -/
def execLmsw (rs : Reg) (s : State) : Outcome :=
  conclude s do
    requireAccess s .control .load
    .ok ({ s with cr0 := lmswCr0 s.cr0 (s.r16 rs) }.retire 3)

/-- WAIT (R144): exception 7 when MP = 1 and TS = 1, whatever EM is; else, with no coprocessor in the model, nothing. -/
def execWait (s : State) : Outcome :=
  conclude s (if s.mp && s.ts then .error (.raise (.exc 7)) else .ok (s.retire 1))

/-- A coprocessor instruction (R145): exception 7 when EM = 1, or when MP = 1 and TS has the trapping value; else it is
refused, since no coprocessor operation is described (R75). -/
def execEsc (_x : BitVec 3) (s : State) : Outcome :=
  conclude s
    (if s.em || (s.ts == Config.escTrapTS && s.mp) then .error (.raise (.exc 7))
    else .error (.refuse .coprocessorNotModelled))

end Sys2Proof.Machine
end

