-- ==== Sys2Proof/Machine/DebugTest.lean ====
section
/-! DEFINITION. MOV to and from the debug and test registers (43_debug_test_register_access.md R180 to R184). -/

namespace Sys2Proof.Machine

/-- MOV r32, DRn (R180): reading DR6 does not clear it. -/
def execMovR32Dr (rd : Reg) (dr : BitVec 3) (s : State) : Outcome :=
  conclude s
    (match s.readDr dr with
    | none => .error (.refuse .reservedRegister)
    | some v => do
      requireAccess s .debug .store
      .ok ((s.setR32 rd v).retire 3))

/-- MOV DRn, r32 (R181). -/
def execMovDrR32 (dr : BitVec 3) (rs : Reg) (s : State) : Outcome :=
  conclude s
    (match s.writeDr dr (s.r32 rs) with
    | none => .error (.refuse .reservedRegister)
    | some s1 => do
      requireAccess s .debug .load
      .ok (s1.retire 3))

/-- MOV r32, TRn (R182). -/
def execMovR32Tr (rd : Reg) (tr : BitVec 3) (s : State) : Outcome :=
  conclude s
    (match s.readTr tr with
    | none => .error (.refuse .reservedRegister)
    | some v => do
      requireAccess s .test .store
      .ok ((s.setR32 rd v).retire 3))

/-- MOV TRn, r32 (R183): no effect on the translation buffer. -/
def execMovTrR32 (tr : BitVec 3) (rs : Reg) (s : State) : Outcome :=
  conclude s
    (match s.writeTr tr (s.r32 rs) with
    | none => .error (.refuse .reservedRegister)
    | some s1 => do
      requireAccess s .test .load
      .ok (s1.retire 3))

end Sys2Proof.Machine
end

