-- ==== Sys2Proof/Machine/FlagInstr.lean ====
section
/-! DEFINITION. The meanings of PUSHF, POPF and IRET (40_flag_instructions.md R120 to R122). -/

namespace Sys2Proof.Machine

/-- The free bit that PUSHF stores at RF's place: drawn only when RF = 1 (R120, D24). -/
def pushfValue (s : State) : Word × State :=
  if s.rf then (pushfImage s.eflags (s.anyBits 1), s.draw) else (pushfImage s.eflags 0, s)

/-- PUSHF (R120). -/
def execPushf (s : State) : Outcome :=
  conclude s do
    requireAccess s .flags .store
    let (v, s1) := pushfValue s
    let s2 ← push32 s1 v
    .ok (s2.retire 1)

/-- POPF (R121): the image is popped, then loaded as far as CPL and the old IOPL allow. -/
def execPopf (s : State) : Outcome :=
  conclude s do
    requireAccess s .flags .load
    let (image, s1) ← pop32 s
    .ok ({ s1 with eflags := popFlags s.eflags image s.curCpl }.retireKeepRf 1)

/-- RETURNING FROM AN EXCEPTION (R122, R212): EIP, CS and EFLAGS are popped, EFLAGS is loaded as by POPF, and CS is
loaded with its descriptor register. VM stays: the one case that would set it is refused. -/
def returnFrame (s : State) : Op State := do
  let (newEip, s1) ← pop32 s
  let (newCs, s2) ← pop32 s1
  let (image, s3) ← pop32 s2
  if s.mode = .pm ∧ s.curCpl = 0 ∧ image.getLsbD 17 then .error (.refuse .v86EntryNotModelled)
  else
    let (cs, newCpl, s4) ← loadSelector s3 (s.seg .cs) (newCs.extractLsb' 0 16) .code
    if newCpl ≠ s.curCpl then .error (.refuse .interLevelReturnNotModelled)
    else .ok { s4.setSeg .cs cs with eip := newEip, eflags := popFlags s.eflags image s.curCpl, stored := [] }

/-- IRET (R122). A completed IRET is a control transfer: what was stored before it may be fetched after it (R93). -/
def execIret (s : State) : Outcome :=
  conclude s
    (if s.mode = .v86 then .error (.refuse .v86IretNotInSource)
    else if s.mode = .pm ∧ s.nt then .error (.refuse .taskReturnNotModelled)
    else returnFrame s)

end Sys2Proof.Machine
end

