-- ==== Sys2Proof/Machine/PortIO.lean ====
section
/-! DEFINITION. The I/O instructions (40_flag_instructions.md R124). An input is a free value and an output changes no
state (R97, D38): what a port holds is the environment's. -/

namespace Sys2Proof.Machine

/-- The IOPL check: in PM and V86 an I/O instruction needs CPL at most IOPL (R25 a, R124). -/
def requireIo (s : State) : Op Unit :=
  if s.mode = .rm ∨ s.curCpl ≤ s.iopl then .ok () else .error (.raise (.exc 13))

/-- An input of `length` bytes of code into AL: the environment's answer is drawn (R124). -/
def inputAl (s : State) (length : Nat) : Outcome :=
  conclude s do
    requireIo s
    .ok ((s.draw.setR8 .al (s.anyBits 8)).retire length)

/-- An input of `length` bytes of code into EAX (R124). -/
def inputEax (s : State) (length : Nat) : Outcome :=
  conclude s do
    requireIo s
    .ok ((s.draw.setR32 .eax (s.anyBits 32)).retire length)

/-- An output of `length` bytes of code: no architectural state changes but EIP and RF (R124). -/
def output (s : State) (length : Nat) : Outcome :=
  conclude s do
    requireIo s
    .ok (s.retire length)

/-- IN AL, imm8 (R124). -/
def execInAlImm (_port : Byte) (s : State) : Outcome := inputAl s 2
/-- IN EAX, imm8 (R124). -/
def execInEaxImm (_port : Byte) (s : State) : Outcome := inputEax s 2
/-- OUT imm8, AL (R124). -/
def execOutImmAl (_port : Byte) (s : State) : Outcome := output s 2
/-- OUT imm8, EAX (R124). -/
def execOutImmEax (_port : Byte) (s : State) : Outcome := output s 2
/-- IN AL, DX (R124). -/
def execInAlDx (s : State) : Outcome := inputAl s 1
/-- IN EAX, DX (R124). -/
def execInEaxDx (s : State) : Outcome := inputEax s 1
/-- OUT DX, AL (R124). -/
def execOutDxAl (s : State) : Outcome := output s 1
/-- OUT DX, EAX (R124). -/
def execOutDxEax (s : State) : Outcome := output s 1

end Sys2Proof.Machine
end

