-- ==== Sys2Proof/Machine/SegMove.lean ====
section
/-! DEFINITION. MOV to and from a segment register (42_system_address_register_access.md R169, R170). -/

namespace Sys2Proof.Machine

/-- What a segment register is loaded for by MOV: SS as a stack segment, the others as data segments (R169). -/
def segMoveUse : SegName → SegUse
  | .ss => .stack
  | .es | .cs | .ds | .fs | .gs => .data

/-- MOV Sreg, r16 (R169): CS and the numbers 6 and 7 are refused. -/
def execMovSegR16 (sreg : BitVec 3) (rs : Reg) (s : State) : Outcome :=
  conclude s
    (match SegName.ofNum sreg with
    | none => .error (.refuse .reservedRegister)
    | some n =>
      if n = .cs then .error (.refuse .reservedRegister)
      else do
        let (v, _, s1) ← loadSelector s (s.seg n) (s.r16 rs) (segMoveUse n)
        .ok ((s1.setSeg n v).retire 2))

/-- MOV r16, Sreg (R170): the selector only; bits 31:16 of the register keep their value. -/
def execMovR16Seg (rd : Reg) (sreg : BitVec 3) (s : State) : Outcome :=
  conclude s
    (match SegName.ofNum sreg with
    | none => .error (.refuse .reservedRegister)
    | some n => .ok ((s.setR16 rd (s.seg n).sel).retire 2))

end Sys2Proof.Machine
end

