-- ==== Sys2Proof/Machine/SystemTable.lean ====
section
/-! DEFINITION. Loads and stores of GDTR, IDTR, LDTR and TR (42_system_address_register_access.md R161 to R168). -/

namespace Sys2Proof.Machine

/-- LGDT m16&32 (R161). -/
def execLgdt (disp : Word) (s : State) : Outcome :=
  conclude s do
    requireAccess s .gdtr .load
    let (bs, s1) ← memRead s .ds disp 6
    .ok ({ s1 with gdtr := tableFromImage bs }.retire 7)

/-- SGDT m16&32 (R162). -/
def execSgdt (disp : Word) (s : State) : Outcome :=
  conclude s do
    requireAccess s .gdtr .store
    let s1 ← memWrite s .ds disp (tableImage s.gdtr)
    .ok (s1.retire 7)

/-- LIDT m16&32 (R163). -/
def execLidt (disp : Word) (s : State) : Outcome :=
  conclude s do
    requireAccess s .idtr .load
    let (bs, s1) ← memRead s .ds disp 6
    .ok ({ s1 with idtr := tableFromImage bs }.retire 7)

/-- SIDT m16&32 (R164). -/
def execSidt (disp : Word) (s : State) : Outcome :=
  conclude s do
    requireAccess s .idtr .store
    let s1 ← memWrite s .ds disp (tableImage s.idtr)
    .ok (s1.retire 7)

/-- A system segment register's content for a selector, by `DescLookup`, and the state after the lookup (R165, R167). -/
def loadSystem (s : State) (sel : Half) (use : SegUse) : Op (SegReg × State) :=
  match s.lookup sel use with
  | .ok b l a _ => .ok (⟨sel, b, l, a⟩, s.afterLookup)
  | .fault v => .error (.raise (.exc v))

/-- LLDT r16 (R165). -/
def execLldt (rs : Reg) (s : State) : Outcome :=
  conclude s do
    requireAccess s .ldtr .load
    let (v, s1) ← loadSystem s (s.r16 rs) .ldt
    .ok ({ s1 with ldtr := v }.retire 3)

/-- SLDT r16 (R166). -/
def execSldt (rd : Reg) (s : State) : Outcome :=
  conclude s do
    requireAccess s .ldtr .store
    .ok ((s.setR16 rd s.ldtr.sel).retire 3)

/-- LTR r16 (R167): it does not switch tasks. -/
def execLtr (rs : Reg) (s : State) : Outcome :=
  conclude s do
    requireAccess s .tr .load
    let (v, s1) ← loadSystem s (s.r16 rs) .tss
    .ok ({ s1 with tr := v }.retire 3)

/-- STR r16 (R168). -/
def execStr (rd : Reg) (s : State) : Outcome :=
  conclude s do
    requireAccess s .tr .store
    .ok ((s.setR16 rd s.tr.sel).retire 3)

end Sys2Proof.Machine
end

