-- ==== Sys2Proof/Machine/Transfer.lean ====
section
/-! DEFINITION. JMP ptr16:32, CALL ptr16:32 and INT imm8 (40_flag_instructions.md R123): the spec's own pseudocode for
each is `refuse(ControlTransferNotInSource)`. -/

namespace Sys2Proof.Machine

/-- The refusal of R123. -/
def refuseTransfer : Outcome := .refused .controlTransferNotInSource

/-- JMP ptr16:32 (R123). -/
def execJmpFar (_offset : Word) (_selector : Half) (_s : State) : Outcome := refuseTransfer

/-- CALL ptr16:32 (R123). -/
def execCallFar (_offset : Word) (_selector : Half) (_s : State) : Outcome := refuseTransfer

/-- INT imm8 (R123). -/
def execIntImm (_vector : Byte) (_s : State) : Outcome := refuseTransfer

end Sys2Proof.Machine
end

