-- ==== Sys2Proof/Machine/Dispatch.lean ====
section
/-! DEFINITION. One arm per instruction: `exec` is R219 steps 4 and 5, the instruction's rule and its completion. -/

namespace Sys2Proof.Machine

/-- What an instruction does in a state in which it has been fetched. -/
def exec (i : Instr) (s : State) : Host.Outcome State Fault Refusal :=
  match i with
  | .pushf => Sys2Proof.Machine.execPushf s
  | .popf => Sys2Proof.Machine.execPopf s
  | .iret => Sys2Proof.Machine.execIret s
  | .jmpFar offset selector => Sys2Proof.Machine.execJmpFar offset selector s
  | .callFar offset selector => Sys2Proof.Machine.execCallFar offset selector s
  | .intImm vector => Sys2Proof.Machine.execIntImm vector s
  | .inAlImm port => Sys2Proof.Machine.execInAlImm port s
  | .inEaxImm port => Sys2Proof.Machine.execInEaxImm port s
  | .outImmAl port => Sys2Proof.Machine.execOutImmAl port s
  | .outImmEax port => Sys2Proof.Machine.execOutImmEax port s
  | .inAlDx => Sys2Proof.Machine.execInAlDx s
  | .inEaxDx => Sys2Proof.Machine.execInEaxDx s
  | .outDxAl => Sys2Proof.Machine.execOutDxAl s
  | .outDxEax => Sys2Proof.Machine.execOutDxEax s
  | .movR32Cr rd cr => Sys2Proof.Machine.execMovR32Cr rd cr s
  | .movCrR32 cr rs => Sys2Proof.Machine.execMovCrR32 cr rs s
  | .lmsw rs => Sys2Proof.Machine.execLmsw rs s
  | .wait => Sys2Proof.Machine.execWait s
  | .esc x => Sys2Proof.Machine.execEsc x s
  | .movSegR16 sreg rs => Sys2Proof.Machine.execMovSegR16 sreg rs s
  | .movR16Seg rd sreg => Sys2Proof.Machine.execMovR16Seg rd sreg s
  | .lgdt disp => Sys2Proof.Machine.execLgdt disp s
  | .sgdt disp => Sys2Proof.Machine.execSgdt disp s
  | .lidt disp => Sys2Proof.Machine.execLidt disp s
  | .sidt disp => Sys2Proof.Machine.execSidt disp s
  | .lldt rs => Sys2Proof.Machine.execLldt rs s
  | .sldt rd => Sys2Proof.Machine.execSldt rd s
  | .ltr rs => Sys2Proof.Machine.execLtr rs s
  | .str rd => Sys2Proof.Machine.execStr rd s
  | .movR32Dr rd dr => Sys2Proof.Machine.execMovR32Dr rd dr s
  | .movDrR32 dr rs => Sys2Proof.Machine.execMovDrR32 dr rs s
  | .movR32Tr rd tr => Sys2Proof.Machine.execMovR32Tr rd tr s
  | .movTrR32 tr rs => Sys2Proof.Machine.execMovTrR32 tr rs s

end Sys2Proof.Machine
end

