-- ==== Sys2Proof/Machine/Debug.lean ====
section
/-! DEFINITION. The debug unit (60_exceptions.md R204 to R207): breakpoint conditions, undefined configurations, and the
debug exception. -/

namespace Sys2Proof.Machine

/-- The four breakpoint numbers (R55). -/
def breakpoints : List Nat := [0, 1, 2, 3]

/-- DR7.R/Wn (R56, R57). -/
def State.breakKind (s : State) (n : Nat) : BitVec 2 := s.dr7.extractLsb' (16 + 4 * n) 2

/-- DR7.LENn (R56, R58). -/
def State.breakLenCode (s : State) (n : Nat) : BitVec 2 := s.dr7.extractLsb' (18 + 4 * n) 2

/-- The number of bytes a LEN code stands for: 00 one, 01 two, 11 four; 10 is undefined and never used (R58). -/
def lenBytes (c : BitVec 2) : Nat :=
  match c.toNat with
  | 0 => 1 | 1 => 2 | 3 => 4 | _ => 1

/-- Breakpoint n is enabled: Ln or Gn (R60). -/
def State.breakEnabled (s : State) (n : Nat) : Bool := s.dr7.getLsbD (2 * n) || s.dr7.getLsbD (2 * n + 1)

/-- The configurations whose effect the spec calls undefined: R/Wn = 10, LENn = 10, R/Wn = 00 with LENn not 00, or DRn
not a multiple of the length (R57, R58, R59, R206). -/
def State.breakUndefined (s : State) (n : Nat) : Bool :=
  s.breakKind n == 2 || s.breakLenCode n == 2 || (s.breakKind n == 0 && !(s.breakLenCode n == 0))
    || !((s.breakAddr n).toNat % lenBytes (s.breakLenCode n) == 0)

/-- Some enabled breakpoint is in an undefined configuration (R206, R219 step 2). -/
def State.enabledUndefined (s : State) : Bool :=
  breakpoints.any (fun n => s.breakEnabled n && s.breakUndefined n)

/-- A data access of an instruction: its kind, its first linear address, its size in bytes (R206). -/
structure DataAccess where
  kind : AccessKind
  addr : Word
  size : Nat
deriving DecidableEq, Repr

/-- Byte ranges, modulo 2 ^ 32, share a byte (R206). -/
def shareByte (a : Word) (m : Nat) (d : Word) (l : Nat) : Bool :=
  (List.range m).any (fun i => decide ((a + BitVec.ofNat 32 i - d).toNat < l))

/-- The condition of breakpoint n holds for a data access (R206): R/W 01 for writes, 11 for reads and writes. -/
def State.dataCond (s : State) (n : Nat) (x : DataAccess) : Bool :=
  !s.breakUndefined n &&
    ((s.breakKind n == 1 && x.kind == .write) ||
      (s.breakKind n == 3 && (x.kind == .read || x.kind == .write))) &&
    shareByte x.addr x.size (s.breakAddr n) (lenBytes (s.breakLenCode n))

/-- The breakpoints whose condition holds for some of the data accesses, enabled or not: `D` of R219 step 4. -/
def State.dataHits (s : State) (xs : List DataAccess) : List Nat :=
  breakpoints.filter (fun n => xs.any (fun x => s.dataCond n x))

/-- The breakpoints whose execution condition holds for an instruction at a linear address, enabled or not: `X` of R219
step 2. -/
def State.execHits (s : State) (ia : Word) : List Nat :=
  breakpoints.filter (fun n => s.breakKind n == 0 && s.breakLenCode n == 0 && s.breakAddr n == ia)

/-- DR6 bits B0 to B3 for breakpoint numbers (R62, R63). -/
def hitBits : List Nat → Word
  | [] => 0
  | n :: ns => (1#32 <<< n) ||| hitBits ns

/-- DR6.BS (R65). -/
def bsBit : Word := 0x00004000
/-- DR6.BT (R64). -/
def btBit : Word := 0x00008000

/-- The breakpoints whose B bit is a free value when a debug exception is generated: those in an undefined
configuration (R206, D16). -/
def State.undefinedHits (s : State) : List Nat := breakpoints.filter (fun n => s.breakUndefined n)

/-- The state with DR6 updated for a debug exception: the given bits are set, the B bits of undefined breakpoints are
free, and no bit is cleared (R63, R67, R206). -/
def State.reportDebug (s : State) (bits : Word) : State :=
  match s.undefinedHits with
  | [] => { s with dr6 := s.dr6 ||| bits }
  | n :: ns =>
    { s with
      dr6 := s.dr6 ||| bits ||| ((s.anyBits 4).setWidth 32 &&& hitBits (n :: ns))
      draws := s.draws + 1 }

/-- Taking a debug exception (R205, R206, R211 a, R214). -/
def State.takeDebug (s : State) (bits : Word) : State := (s.reportDebug bits).takeException .debugException

/-- The data accesses an instruction makes when it completes, in the state it starts in (R194, R206): the stack accesses
of PUSHF, POPF and IRET and the 6-byte accesses of LGDT, LIDT, SGDT and SIDT. -/
def dataAccesses (i : Instr) (s : State) : List DataAccess :=
  match i with
  | .pushf => [⟨.write, linearAddr (s.seg .ss) (s.r32 .esp - 4), 4⟩]
  | .popf => [⟨.read, linearAddr (s.seg .ss) (s.r32 .esp), 4⟩]
  | .iret =>
    [⟨.read, linearAddr (s.seg .ss) (s.r32 .esp), 4⟩, ⟨.read, linearAddr (s.seg .ss) (s.r32 .esp + 4), 4⟩,
     ⟨.read, linearAddr (s.seg .ss) (s.r32 .esp + 8), 4⟩]
  | .lgdt d | .lidt d => [⟨.read, linearAddr (s.seg .ds) d, 6⟩]
  | .sgdt d | .sidt d => [⟨.write, linearAddr (s.seg .ds) d, 6⟩]
  | .jmpFar _ _ | .callFar _ _ | .intImm _ => []
  | .inAlImm _ | .inEaxImm _ | .outImmAl _ | .outImmEax _ => []
  | .inAlDx | .inEaxDx | .outDxAl | .outDxEax => []
  | .movR32Cr _ _ | .movCrR32 _ _ | .lmsw _ | .wait | .esc _ => []
  | .movSegR16 _ _ | .movR16Seg _ _ => []
  | .lldt _ | .sldt _ | .ltr _ | .str _ => []
  | .movR32Dr _ _ | .movDrR32 _ _ | .movR32Tr _ _ | .movTrR32 _ _ => []

end Sys2Proof.Machine
end

