-- ==== Sys2Proof/Machine/Fetch.lean ====
section
/-! DEFINITION. Fetching an instruction (60_exceptions.md R219 step 3) and what stands around its execution: the checks
before the fetch (steps 1 and 2) and the debug trap and the next boundary after it (step 6). -/

namespace Sys2Proof.Machine

/-- The spec's name for a rejection of the decoder (R101, R108). -/
def refusalOf : DecodeError → Refusal
  | .prefixByte => .prefixNotAdmitted
  | .modRMShape => .modRMNotAdmitted
  | .notInSpec => .notInSpec

/-- The linear address of the `k`-th byte of the instruction at CS:EIP (R19, R81). -/
def State.fetchLinear (s : State) (k : Nat) : Word := linearAddr (s.seg .cs) (s.eip + BitVec.ofNat 32 k)

/-- One instruction byte (R219 step 3): bounds against CS.limit, attributes for execution, translation, and a refusal
where the program has stored to the byte (R93). -/
def fetchByte (s : State) (k : Nat) : Op (Byte × State) := do
  checkSeg s (s.seg .cs) (s.eip.toNat + k) 1 .execute
  let (p, s1) ← translate s .execute (s.fetchLinear k)
  if s1.stored.contains p.toNat then .error (.refuse .storedByteFetched)
  else
    let b ← readPhys s1 p.toNat
    .ok (b, s1)

/-- Bytes are fetched one at a time, as far as the instruction's format needs, at most `fuel` more (R219 step 3). -/
def fetchFrom (s : State) (got : List Byte) : Nat → Op (Instr × State)
  | 0 => .error (.refuse .notInSpec)
  | fuel + 1 => do
    let (b, s1) ← fetchByte s got.length
    match decodeBytes (got ++ [b]) with
    | .done i => .ok (i, s1)
    | .more => fetchFrom s1 (got ++ [b]) fuel
    | .reject e => .error (.refuse (refusalOf e))

/-- The instruction at CS:EIP, and the state after its fetch (only the translation buffer and the free values drawn can
have changed). -/
def fetch (s : State) : Op (Instr × State) := fetchFrom s [] longestInstr

/-- The environment's `IntrPending` at this instruction boundary (R76). -/
def State.intrNow (s : State) : Bool :=
  match s.intrLine with
  | b :: _ => b
  | [] => Config.intrPending s.draws

/-- The next instruction boundary: the environment answers anew (R76). -/
def State.nextBoundary (s : State) : State := { s with intrLine := s.intrLine.tail, draws := s.draws + 1 }

/-- R219 steps 0 to 2: what ends the step before the instruction is fetched, if anything does. -/
def beforeFetch (s : State) : Option Outcome :=
  if s.trapped.isSome then some (.fault .noStepFromTrapped)
  else if s.ifl && s.intrNow then some (.next (s.takeException .externalInterrupt))
  else if s.enabledUndefined then some (.refused .undefinedBreakpoint)
  else if !s.rf && (s.execHits (s.fetchLinear 0)).any s.breakEnabled then
    some (.next (s.takeDebug (hitBits (s.execHits (s.fetchLinear 0)))))
  else none

/-- R219 step 6, from the state `s` in which instruction `i` started and the state `t` in which it completed: a debug
trap for single step or an enabled data breakpoint, else the next instruction boundary. -/
def afterInstr (s : State) (i : Instr) (t : State) : State :=
  let hits := t.dataHits (dataAccesses i s)
  if s.tf || hits.any t.breakEnabled then t.takeDebug ((if s.tf then bsBit else 0) ||| hitBits hits)
  else t.nextBoundary

/-- What a step answers once instruction `i` has been executed from `s` with outcome `o`: a completed instruction goes
on to R219 step 6, one that raised an exception ends the run there. -/
def finishStep (s : State) (i : Instr) (o : Outcome) : Outcome :=
  match o with
  | .next t => if t.trapped.isSome then .next t else .next (afterInstr s i t)
  | .fault f => .fault f
  | .refused r => .refused r

/-- Where the fetch finds the byte at a linear address, if the page is there. -/
def State.fetchPlace (s : State) (k : Nat) : Option Nat :=
  match translate s .execute (s.fetchLinear k) with
  | .ok (p, _) => some p.toNat
  | .error _ => none

/-- Bytes placed where the fetch of the instruction at CS:EIP reads them, byte by byte from the `k`-th on; they do not
count as stored by the program (R93). -/
def State.placeCode (s : State) (k : Nat) : List Byte → State
  | [] => s
  | b :: bs =>
    match s.fetchPlace k with
    | some a => State.placeCode { s with mem := s.mem.setByte a b, stored := s.stored.erase a } (k + 1) bs
    | none => State.placeCode s (k + 1) bs

end Sys2Proof.Machine
end

