-- ==== Sys2Proof/Machine/Step.lean ====
section
/-! DEFINITION. One step of the machine (60_exceptions.md R219), and the placing of one instruction where the next step
fetches it. -/

namespace Sys2Proof.Machine

/-- ONE STEP (R219): the checks before the fetch, the fetch, the instruction, and what follows it. An instruction that
raises an exception leaves the translation buffer with the pages its fetch used and without those of its data accesses,
and a fetch that raises one leaves it as it was: DESIGN CHOICE, which R214 does not settle (log 46). -/
def step (s : State) : Host.Outcome State Fault Refusal :=
  match beforeFetch s with
  | some o => o
  | none =>
    match fetch s with
    | .ok (i, s1) => finishStep s1 i (exec i s1)
    | .error h => conclude s (.error h)

/-- The state with the instruction of the opcode table's word `w` of `nbits` bits (see `tableWordBytes`) stored at CS:EIP,
where the next step fetches. -/
def State.withFetchWord (s : State) (nbits w : Nat) : State := s.placeCode 0 (tableWordBytes nbits w)

end Sys2Proof.Machine
end

