-- ==== Sys2Proof/Machine/Task.lean ====
section
/-! DEFINITION. The task switch (60_exceptions.md R221): the effects the spec attributes to it, as one operation over the
incoming task's state. The spec refuses every instruction and event that would switch tasks (R123, R122), so no step
reaches it; the TSS layout it would be loaded from is not in the spec. -/

namespace Sys2Proof.Machine

/-- The task-dependent state (R5, R74) as an incoming task gives it, with the debug trap bit T of its TSS (R64). -/
structure TaskImage where
  gpr : Gprs
  segs : SegFile
  eip : Word
  eflags : Word
  ldtr : SegReg
  tr : SegReg
  cpl : BitVec 2
  debugTrap : Bool
deriving DecidableEq, Repr

/-- What a task switch saves of the outgoing task (R221 effect 9): its flags image shows VM (R215). T belongs to the
outgoing task's TSS and no rule says that a switch touches it; this record of the machine's registers gives it as false,
and nothing reads it: DESIGN CHOICE (log 38). -/
def State.savedTask (s : State) : TaskImage :=
  { gpr := s.gpr, segs := s.segs, eip := s.eip, eflags := savedFlagsImage s.eflags, ldtr := s.ldtr, tr := s.tr,
    cpl := s.curCpl, debugTrap := false }

/-- DR7 after a task switch: L0 to L3 cleared, everything else kept (R60, R221 effect 5). -/
def dr7AfterSwitch (dr7 : Word) : Word := dr7 &&& ~~~0x00000055

/-- EFLAGS after a task switch: the incoming image with its fixed bits (IOPL always, RF from the image) and NT set or
cleared as the switch asks (R221 effects 1, 6, 7, 8). -/
def flagsAfterSwitch (image : Word) (nested : Bool) : Word :=
  mergeBits ((image &&& eflagsMask) ||| 2) (if nested then ntMask else 0) ntMask

/-- The state of the incoming task before its debug trap (R221 effects 1 to 8, 11 and 12): the task state is loaded, TS
is set, the local breakpoint enables are cleared, and CR3, where the switch gives one, empties the translation buffer. -/
def State.loadTask (s : State) (t : TaskImage) (nested : Bool) (newCr3 : Option (BitVec 20)) : State :=
  { s with
    gpr := t.gpr, segs := t.segs, eip := t.eip, ldtr := t.ldtr, tr := t.tr, cpl := t.cpl
    eflags := flagsAfterSwitch t.eflags nested
    cr0 := s.cr0 ||| 8
    dr7 := dr7AfterSwitch s.dr7
    cr3 := newCr3.getD s.cr3
    tlb := if newCr3.isSome then [] else s.tlb
    stored := [] }

/-- The task switch (R221): the incoming task's state, and a debug exception with BT when its T bit is set (R204). -/
def State.switchTask (s : State) (t : TaskImage) (nested : Bool) (newCr3 : Option (BitVec 20)) : State :=
  let s1 := s.loadTask t nested newCr3
  if t.debugTrap then s1.takeDebug btBit else s1

end Sys2Proof.Machine
end

