-- ==== Sys2Proof/Safety.lean ====
section
/-! DEFINITION. What a legal state is, and what it means for a run to end safely: the terms the statements use. -/

namespace Sys2Proof.Machine

/-- The fixed and reserved bits read as the spec says: EFLAGS (R21), CR0 (R47), DR6 (R62), DR7 (R56). -/
abbrev State.FixedBits (s : State) : Prop :=
  s.eflags &&& ~~~eflagsMask = 0 ∧ s.eflags.getLsbD 1 = true ∧
  s.cr0 &&& ~~~cr0Mask = 0 ∧ s.dr6 &&& ~~~dr6Mask = 0 ∧ s.dr7 &&& ~~~dr7Mask = 0

/-- The mode bits are a legal mode: PG only with PE (R84, R141), VM only with PE (R22), and the CPL component is what the
mode says: 0 in RM, 3 in V86 (R72). -/
abbrev State.ModeOk (s : State) : Prop :=
  (s.pg = true → s.pe = true) ∧ (s.vm = true → s.pe = true) ∧
  (s.mode = .rm → s.cpl = 0) ∧ (s.mode = .v86 → s.cpl = 3)

/-- Memory and the stored-to record are in canonical form. -/
abbrev State.MemoryOk (s : State) : Prop := s.mem.wf = true ∧ storedWf s.stored = true

/-- A legal state. -/
abbrev State.Legal (s : State) : Prop := s.FixedBits ∧ s.ModeOk ∧ s.MemoryOk

/-- An access of `count` bytes at offset `off` of a segment passes every check (R82, R83, R84, R89) and lies at the
physical addresses `ps`; `s1` is the state after the translation. With paging off `s1` is `s` and the addresses are the
linear ones. -/
abbrev State.Maps (s : State) (kind : AccessKind) (n : SegName) (off : Word) (count : Nat) (ps : List Nat)
    (s1 : State) : Prop :=
  off.toNat + count ≤ (s.seg n).limit.toNat + 1 ∧ attrAllows (s.seg n).attr kind s.curCpl = true ∧
  translateRange s kind (linearAddr (s.seg n) off) count = .ok (ps, s1) ∧ ∀ a ∈ ps, s.isInstalled a = true

/-- Memory gives the bytes `bs` at the addresses `ps`, one each. -/
abbrev State.HoldsBytes (s : State) (ps : List Nat) (bs : List Byte) : Prop :=
  ps.map s.mem.byteAt = bs.map some

/-- The state with EIP moved `n` bytes on and RF cleared: what the completion of an instruction that does not write EIP
leaves (R19, R23). -/
def State.past (s : State) (n : Word) : State := { s with eip := s.eip + n, eflags := s.eflags &&& 0xFFFEFFFF }

/-- The state in which exception `v` has been raised by an instruction that changed nothing (R214). -/
def State.raised (s : State) (v : Byte) : State := { s with trapped := some (.exc v) }

/-- The bytes `bs` lie at CS:EIP and can be fetched (R219 step 3), with paging off: they are in bounds, allowed, in
`PhysMem`, given, and not stored to by the program. -/
abbrev State.CodeAt (s : State) (bs : List Byte) : Prop :=
  s.pagingOn = false ∧ s.eip.toNat + bs.length ≤ (s.seg .cs).limit.toNat + 1 ∧
  attrAllows (s.seg .cs).attr .execute s.curCpl = true ∧
  ∀ k < bs.length,
    s.isInstalled (s.fetchLinear k).toNat = true ∧ s.mem.byteAt (s.fetchLinear k).toNat = bs[k]? ∧
    (s.fetchLinear k).toNat ∉ s.stored

/-- The encoded instruction `i` lies at CS:EIP and can be fetched. -/
abbrev State.InstrAt (s : State) (i : Instr) : Prop := s.CodeAt (encode i)

/-- No proper beginning of `bs` is a whole instruction: the fetch goes on to the last byte of `bs` (R101, R219 step 3). -/
abbrev FetchGoesOn (bs : List Byte) : Prop := ∀ k < bs.length, decodeBytes (bs.take k) = .more

/-- An access of `count` bytes at offset `off` of a segment is out of bounds, on natural numbers, or denied by the
segment's attributes (R82, R83). -/
abbrev State.Barred (s : State) (kind : AccessKind) (n : SegName) (off : Word) (count : Nat) : Prop :=
  (s.seg n).limit.toNat + 1 < off.toNat + count ∨ attrAllows (s.seg n).attr kind s.curCpl = false

/-- Nothing ends the step before the fetch (R219 steps 0 to 2): not trapped, no interrupt taken, no enabled breakpoint
in an undefined configuration, no enabled instruction breakpoint that RF does not suppress. -/
abbrev State.ReadyToFetch (s : State) : Prop :=
  s.trapped = none ∧ (s.ifl = true → s.intrNow = false) ∧
  (∀ n < 4, s.breakEnabled n = true → s.breakUndefined n = false) ∧
  (s.rf = false → ∀ n < 4, s.breakEnabled n = true → s.breakKind n = 0 → s.breakAddr n ≠ s.fetchLinear 0)

/-- An I/O instruction passes the IOPL check: in RM always, in PM and V86 when CPL is at most IOPL (R25 a, R124). -/
abbrev State.IoAllowed (s : State) : Prop := s.mode = .rm ∨ s.curCpl.toNat ≤ s.iopl.toNat

/-- Every register that PM code at a level other than 0 may not change (R70, R216), and the privileged flags VM and
IOPL, are the same in both states. -/
abbrev State.SamePrivileged (s t : State) : Prop :=
  t.cr0 = s.cr0 ∧ t.cr3 = s.cr3 ∧ t.gdtr = s.gdtr ∧ t.idtr = s.idtr ∧ t.ldtr = s.ldtr ∧ t.tr = s.tr ∧
  t.dr0 = s.dr0 ∧ t.dr1 = s.dr1 ∧ t.dr2 = s.dr2 ∧ t.dr3 = s.dr3 ∧ t.dr6 = s.dr6 ∧ t.dr7 = s.dr7 ∧
  t.tr6 = s.tr6 ∧ t.tr7 = s.tr7 ∧ t.cpl = s.cpl ∧ t.vm = s.vm ∧ t.iopl = s.iopl

end Sys2Proof.Machine
end

