-- ==== Sys2Proof/Certificates/Slice0/Obligations.lean ====
section
/-! DEFINITION. The statements for the provers, each with the rules of the spec it formalises. -/

open Sys2Proof Sys2Proof.Machine

/-! ## Encoding -/

/-- Bytes written out from the table of R107 decode to the instructions they stand for. Rests on log 14. -/
def Obligations.DecodesTableBytes : Prop :=
  decodeBytes [0x9C] = .done .pushf ∧ decodeBytes [0x9D] = .done .popf ∧ decodeBytes [0xCF] = .done .iret ∧
  decodeBytes [0xEA, 0x00, 0x10, 0x00, 0x00, 0x08, 0x00] = .done (.jmpFar 0x00001000 0x0008) ∧
  decodeBytes [0xE5, 0x60] = .done (.inEaxImm 0x60) ∧
  decodeBytes [0x0F, 0x20, 0xC3] = .done (.movR32Cr .ebx 0) ∧
  decodeBytes [0x0F, 0x22, 0xD8] = .done (.movCrR32 3 .eax) ∧
  decodeBytes [0x0F, 0x01, 0xF0] = .done (.lmsw .eax) ∧ decodeBytes [0x8E, 0xD8] = .done (.movSegR16 3 .eax) ∧
  decodeBytes [0x8C, 0xCB] = .done (.movR16Seg .ebx 1) ∧
  decodeBytes [0x0F, 0x01, 0x15, 0x00, 0x20, 0x00, 0x00] = .done (.lgdt 0x00002000) ∧
  decodeBytes [0x0F, 0x00, 0xCB] = .done (.str .ebx) ∧ decodeBytes [0x0F, 0x21, 0xF9] = .done (.movR32Dr .ecx 7) ∧
  decodeBytes [0x0F, 0x26, 0xF8] = .done (.movTrR32 7 .eax) ∧ decodeBytes [0xD9] = .done (.esc 1)

/-- Decoding undoes encoding, for every instruction with every operand, whatever bytes follow (R105 to R107).
Rests on log 14, 15. -/
def Obligations.DecodeOfEncode : Prop :=
  ∀ (i : Instr) (rest : List Byte), decodeBytes (encode i ++ rest) = .done i

/-- A decoded byte sequence starts with the encoding of what it decodes to: no bit the table fixes is ignored, and two
sequences of exactly the instruction's length that decode to it are equal (R107). Rests on log 14, 15. -/
def Obligations.EncodeOfDecode : Prop :=
  ∀ (bs : List Byte) (i : Instr), decodeBytes bs = .done i → ∃ rest, bs = encode i ++ rest

/-- The decoder asks for another byte until it has the last byte of the instruction (R101, R105). Rests on log 14, 15. -/
def Obligations.DecoderWaitsForEveryByte : Prop :=
  ∀ (i : Instr) (k : Nat), k < (encode i).length → decodeBytes ((encode i).take k) = .more

/-- Prefix bytes, and ModR/M shapes that are neither register direct nor, for 0F 01, disp32, are refused by name (R101,
R102, R108 d). Rests on log 14. -/
def Obligations.DecoderRefusesByName : Prop :=
  (∀ b ∈ ([0x66, 0x67, 0xF0, 0xF2, 0xF3, 0x26, 0x2E, 0x36, 0x3E, 0x64, 0x65] : List Byte), ∀ rest : List Byte,
    decodeBytes (b :: rest) = .reject .prefixByte) ∧
  (∀ op ∈ ([0x00, 0x20, 0x21, 0x22, 0x23, 0x24, 0x26] : List Byte), ∀ (m : Byte) (rest : List Byte),
    m.toNat / 64 ≠ 3 → decodeBytes (0x0F :: op :: m :: rest) = .reject .modRMShape) ∧
  (∀ op ∈ ([0x8C, 0x8E] : List Byte), ∀ (m : Byte) (rest : List Byte),
    m.toNat / 64 ≠ 3 → decodeBytes (op :: m :: rest) = .reject .modRMShape) ∧
  (∀ (m : Byte) (rest : List Byte), m.toNat / 64 ≠ 3 → ¬ (m.toNat / 64 = 0 ∧ m.toNat % 8 = 5) →
    decodeBytes (0x0F :: 0x01 :: m :: rest) = .reject .modRMShape)

/-! ## The step -/

/-- A step runs the instruction it fetched: it is `exec` of that instruction in the state after the fetch, followed by
R219 step 6. A raised exception ends the run there; else a debug trap is taken when TF was 1 or an enabled data
breakpoint was hit; else the next instruction boundary is reached. A fetch that raises an exception ends the run with it,
the state otherwise as it was; one that has no step or is refused stops the step so. Rests on log 11, 33, 36, 46. -/
def Obligations.StepRunsFetchedInstruction : Prop :=
  ∀ s : State, s.ReadyToFetch →
    (∀ (s1 : State) (i : Instr), fetch s = .ok (i, s1) →
      (∀ f, exec i s1 = .fault f → step s = .fault f) ∧
      (∀ r, exec i s1 = .refused r → step s = .refused r) ∧
      (∀ t, exec i s1 = .next t → t.trapped ≠ none → step s = .next t) ∧
      (∀ t, exec i s1 = .next t → t.trapped = none → s.tf = false →
        (∀ n < 4, t.breakEnabled n = true → ∀ x ∈ dataAccesses i s1, t.dataCond n x = false) →
        step s = .next { t with intrLine := t.intrLine.tail, draws := t.draws + 1 }) ∧
      (∀ t, exec i s1 = .next t → t.trapped = none →
        (s.tf = true ∨ ∃ n < 4, t.breakEnabled n = true ∧ ∃ x ∈ dataAccesses i s1, t.dataCond n x = true) →
        ∃ u, step s = .next u ∧ u.trapped = some .debugException ∧ u.eip = t.eip)) ∧
    (∀ v, fetch s = .error (.raise (.exc v)) → step s = .next (s.raised v)) ∧
    (∀ a, fetch s = .error (.raise (.pageMiss a)) →
      step s = .next { s with trapped := some (.pageMiss a), cr2 := a }) ∧
    (∀ f, fetch s = .error (.fault f) → step s = .fault f) ∧
    (∀ r, fetch s = .error (.refuse r) → step s = .refused r)

/-- When the bytes at CS:EIP are those of an instruction, the step fetches that instruction and the fetch changes nothing;
when they match no row, start with a prefix byte or have another ModR/M shape, the step is refused under that name as
soon as the last of them is fetched (R101, R108, R219 step 3; paging off). Rests on log 3, 14, 18, 21, 22. -/
def Obligations.StepFetchesBytesAtEip : Prop :=
  ∀ s : State, s.ReadyToFetch →
    (∀ i : Instr, s.InstrAt i → fetch s = .ok (i, s) ∧ step s = finishStep s i (exec i s)) ∧
    (∀ bs : List Byte, s.CodeAt bs → FetchGoesOn bs →
      (decodeBytes bs = .reject .notInSpec → step s = .refused .notInSpec) ∧
      (decodeBytes bs = .reject .prefixByte → step s = .refused .prefixNotAdmitted) ∧
      (decodeBytes bs = .reject .modRMShape → step s = .refused .modRMNotAdmitted))

/-- There is no step from a `Trapped` state (R214, R219 step 0). Rests on log 11. -/
def Obligations.TrappedHasNoStep : Prop :=
  ∀ (s : State) (c : TrapCause), s.trapped = some c → step s = .fault .noStepFromTrapped

/-- Every step keeps a legal state legal: the fixed bits of EFLAGS, CR0, DR6 and DR7, the mode rules (PG and VM only with
PE, CPL 0 in RM and 3 in V86), and the canonical form of memory (R21, R47, R56, R62, R72, R84, R141).
Rests on log 20, 23, 27. -/
def Obligations.StepKeepsLegal : Prop :=
  ∀ s t : State, s.Legal → step s = .next t → t.Legal

/-- The state after reset is legal, for either coprocessor. That its other values are what they are is the model's choice
(log 1, log 4). -/
def Obligations.ResetIsLegal : Prop :=
  State.reset.Legal ∧ ∀ b : Bool, (State.resetWith b).Legal

/-- After reset CR0.EM = 0 and CR0.ET = `CoprocessorType` (R250). -/
def Obligations.ResetCoprocessorBits : Prop :=
  (∀ b : Bool, (State.resetWith b).em = false ∧ (State.resetWith b).et = b) ∧
  State.reset.em = false ∧ State.reset.et = Config.coprocessorIs387

/-! ## Registers, aliases, flags -/

/-- The 16-bit alias of a register is its bits 15:0, AL CL DL BL are bits 7:0 and AH CH DH BH bits 15:8 of EAX ECX EDX
EBX; a write of an alias replaces its bits only, and no other register changes (R11, R12). Rests on log 40. -/
def Obligations.AliasesAreRegisterParts : Prop :=
  (∀ (s : State) (r : Reg), (s.r16 r).toNat = (s.r32 r).toNat % 65536) ∧
  (∀ s : State,
    (s.r8 .al).toNat = (s.r32 .eax).toNat % 256 ∧ (s.r8 .ah).toNat = (s.r32 .eax).toNat / 256 % 256 ∧
    (s.r8 .bl).toNat = (s.r32 .ebx).toNat % 256 ∧ (s.r8 .bh).toNat = (s.r32 .ebx).toNat / 256 % 256 ∧
    (s.r8 .cl).toNat = (s.r32 .ecx).toNat % 256 ∧ (s.r8 .ch).toNat = (s.r32 .ecx).toNat / 256 % 256 ∧
    (s.r8 .dl).toNat = (s.r32 .edx).toNat % 256 ∧ (s.r8 .dh).toNat = (s.r32 .edx).toNat / 256 % 256) ∧
  (∀ (s : State) (r : Reg) (v : Half),
    ((s.setR16 r v).r32 r).toNat = (s.r32 r).toNat / 65536 * 65536 + v.toNat ∧ (s.setR16 r v).r16 r = v ∧
    (∀ q, q ≠ r → (s.setR16 r v).r32 q = s.r32 q) ∧ s.setR16 r v = { s with gpr := (s.setR16 r v).gpr }) ∧
  (∀ (s : State) (r : Reg8) (v : Byte),
    (s.setR8 r v).r8 r = v ∧ (∀ q, q ≠ r → (s.setR8 r v).r8 q = s.r8 q) ∧
    (∀ q : Reg, ((s.setR8 r v).r32 q).toNat / 65536 = (s.r32 q).toNat / 65536) ∧
    (∀ q : Reg, q ≠ parentOf r → (s.setR8 r v).r32 q = s.r32 q) ∧
    s.setR8 r v = { s with gpr := (s.setR8 r v).gpr })

/-- PF, AF, ZF and SF of an addition and of a subtraction, with a carry or a borrow in, at any width from 8 bits on: PF is
1 for an even number of ones in the low byte, AF is the carry out of bit 3 or the borrow into it, ZF is 1 for a zero
result, SF is the result's top bit (R30, R31, R32, R33). -/
def Obligations.AdditionFlags : Prop :=
  ∀ (n : Nat) (a b : BitVec n) (c : Bool), 8 ≤ n →
    ((addFlags a b c).pf = true ↔ ((List.range 8).countP (fun i => (addResult a b c).getLsbD i)) % 2 = 0) ∧
    ((subFlags a b c).pf = true ↔ ((List.range 8).countP (fun i => (subResult a b c).getLsbD i)) % 2 = 0) ∧
    ((addFlags a b c).af = true ↔ a.toNat % 16 + b.toNat % 16 + c.toNat > 15) ∧
    ((subFlags a b c).af = true ↔ a.toNat % 16 < b.toNat % 16 + c.toNat) ∧
    ((addFlags a b c).zf = true ↔ (addResult a b c).toNat = 0) ∧
    ((subFlags a b c).zf = true ↔ (subResult a b c).toNat = 0) ∧
    ((addFlags a b c).sf = true ↔ (addResult a b c).toNat ≥ 2 ^ (n - 1)) ∧
    ((subFlags a b c).sf = true ↔ (subResult a b c).toNat ≥ 2 ^ (n - 1))

/-- The result, CF and OF of an addition and of a subtraction, with a carry or a borrow in: the result is the sum or the
difference modulo 2 ^ n, CF the carry out of the top bit or the unsigned borrow, OF its formula; and, without a carry in,
OF says that the result is not the exact signed one (R26, R34, R192; OF and the borrow are the family's).
Rests on log 39. -/
def Obligations.OverflowIsSignedOverflow : Prop :=
  ∀ (n : Nat) (a b : BitVec n) (c : Bool), 0 < n →
    (addResult a b c).toNat = (a.toNat + b.toNat + c.toNat) % 2 ^ n ∧
    ((subResult a b c).toNat : Int) = ((a.toNat : Int) - b.toNat - c.toNat) % 2 ^ n ∧
    ((addFlags a b c).cf = true ↔ a.toNat + b.toNat + c.toNat ≥ 2 ^ n) ∧
    ((subFlags a b c).cf = true ↔ a.toNat < b.toNat + c.toNat) ∧
    ((addFlags a b c).of = true ↔
      (a.getLsbD (n - 1) = b.getLsbD (n - 1) ∧ (addResult a b c).getLsbD (n - 1) ≠ a.getLsbD (n - 1))) ∧
    ((subFlags a b c).of = true ↔
      (a.getLsbD (n - 1) ≠ b.getLsbD (n - 1) ∧ (subResult a b c).getLsbD (n - 1) ≠ a.getLsbD (n - 1))) ∧
    ((addFlags a b false).of = true ↔ a.toInt + b.toInt ≠ (addResult a b false).toInt) ∧
    ((subFlags a b false).of = true ↔ a.toInt - b.toInt ≠ (subResult a b false).toInt)

/-- A string operation's index steps by the element size, up when DF = 0 and down when DF = 1, modulo 2 ^ 32; the index
it does not use and everything else stay (R125). Rests on log 22, 39. -/
def Obligations.StringStepFollowsDf : Prop :=
  ∀ (s : State) (size : Nat) (usesEsi usesEdi : Bool), size ∈ [1, 2, 4] →
    (s.df = false → usesEsi = true →
      ((s.stringStep size usesEsi usesEdi).r32 .esi).toNat = ((s.r32 .esi).toNat + size) % 2 ^ 32) ∧
    (s.df = true → usesEsi = true →
      ((s.stringStep size usesEsi usesEdi).r32 .esi).toNat = ((s.r32 .esi).toNat + (2 ^ 32 - size)) % 2 ^ 32) ∧
    (s.df = false → usesEdi = true →
      ((s.stringStep size usesEsi usesEdi).r32 .edi).toNat = ((s.r32 .edi).toNat + size) % 2 ^ 32) ∧
    (s.df = true → usesEdi = true →
      ((s.stringStep size usesEsi usesEdi).r32 .edi).toNat = ((s.r32 .edi).toNat + (2 ^ 32 - size)) % 2 ^ 32) ∧
    (usesEsi = false → (s.stringStep size usesEsi usesEdi).r32 .esi = s.r32 .esi) ∧
    (usesEdi = false → (s.stringStep size usesEsi usesEdi).r32 .edi = s.r32 .edi) ∧
    (∀ r : Reg, r ≠ .esi → r ≠ .edi → (s.stringStep size usesEsi usesEdi).r32 r = s.r32 r) ∧
    s.stringStep size usesEsi usesEdi = { s with gpr := (s.stringStep size usesEsi usesEdi).gpr }

/-! ## PUSHF, POPF, IRET -/

/-- PUSHF, wherever its four stack bytes can be written, stores its image at SS:ESP - 4, takes 4 from ESP, moves EIP on and
clears RF; the four addresses join the record of stored bytes, the translation buffer is as the translations left it, and
no other byte of memory, no other register and no other flag changes (R93, R120). Rests on log 12, 13, 18, 19. -/
def Obligations.PushfStoresItsImage : Prop :=
  ∀ (s s1 : State) (ps : List Nat), s.allowed .flags .store = true →
    (pushfValue s).2.Maps .write .ss (s.r32 .esp - 4) 4 ps s1 →
    ∃ t, exec .pushf s = .next t ∧
      ps.map t.mem.byteAt = (toBytesLE (pushfValue s).1.toNat 4).map some ∧
      (∀ a, a ∉ ps → t.mem.byteAt a = s.mem.byteAt a) ∧
      t.r32 .esp = s.r32 .esp - 4 ∧ (∀ r, r ≠ .esp → t.r32 r = s.r32 r) ∧
      t = { s with gpr := t.gpr, mem := t.mem, stored := addAddrs s.stored ps, tlb := s1.tlb, draws := s1.draws,
                   eip := s.eip + 1, eflags := s.eflags &&& 0xFFFEFFFF }

/-- The image PUSHF stores: VM is 0 and bit 1 is 1 in every mode, the bits drawn 0 are 0, RF is 0 when EFLAGS.RF is 0, and
every other flag is as in EFLAGS (R21, R120, 90_conflicts.md C9). Rests on log 23, 25. -/
def Obligations.PushfImageBits : Prop :=
  ∀ s : State,
    (pushfValue s).1.getLsbD 17 = false ∧ (pushfValue s).1.getLsbD 1 = true ∧
    (s.rf = false → (pushfValue s).1.getLsbD 16 = false) ∧
    (∀ i < 32, i ∈ [3, 5, 15] ∨ 18 ≤ i → (pushfValue s).1.getLsbD i = false) ∧
    (∀ i ∈ [0, 2, 4, 6, 7, 8, 9, 10, 11, 12, 13, 14], (pushfValue s).1.getLsbD i = s.eflags.getLsbD i)

/-- POPF, wherever its four stack bytes can be read, adds 4 to ESP and loads EFLAGS from them as R121 says; nothing else
changes but EIP and the translation buffer, which is as the translations left it, and RF is not cleared afterwards
(R121). Rests on log 12, 13, 19. -/
def Obligations.PopfLoadsItsImage : Prop :=
  ∀ (s s1 : State) (ps : List Nat) (image : Word), s.allowed .flags .load = true →
    s.Maps .read .ss (s.r32 .esp) 4 ps s1 → s.HoldsBytes ps (toBytesLE image.toNat 4) →
    ∃ t, exec .popf s = .next t ∧ t.eflags = popFlags s.eflags image s.curCpl ∧
      t.r32 .esp = s.r32 .esp + 4 ∧ (∀ r, r ≠ .esp → t.r32 r = s.r32 r) ∧
      t = { s with gpr := t.gpr, eflags := t.eflags, tlb := s1.tlb, draws := s1.draws, eip := s.eip + 1 }

/-- What POPF and IRET make of a flags image, bit by bit: CF PF AF ZF SF TF DF OF NT RF always from the image, IF only
where CPL is at most the old IOPL, IOPL only at CPL 0, every other bit, VM among them, kept (R121).
Rests on log 23, 26. -/
def Obligations.PopFlagsByPrivilege : Prop :=
  ∀ (old image : Word) (cpl : BitVec 2) (i : Nat), i < 32 →
    (popFlags old image cpl).getLsbD i =
      if i ∈ [0, 2, 4, 6, 7, 8, 10, 11, 14, 16] then image.getLsbD i
      else if i = 9 then (if cpl.toNat ≤ old.toNat / 4096 % 4 then image.getLsbD 9 else old.getLsbD 9)
      else if i = 12 ∨ i = 13 then (if cpl.toNat = 0 then image.getLsbD i else old.getLsbD i)
      else old.getLsbD i

/-- IRET in RM, wherever its twelve stack bytes can be read: EIP, CS with its descriptor register (as on the 8086) and
EFLAGS are loaded from the frame, ESP goes up by 12, and nothing else changes but the record of stored bytes, which a
control transfer empties, and the translation buffer, which is as the translations left it (R93, R122, R160).
Rests on log 13, 18, 19, 31. -/
def Obligations.IretReturnsToFrame : Prop :=
  ∀ (s s1 s2 s3 : State) (p1 p2 p3 : List Nat) (newEip newCs image : Word),
    s.Maps .read .ss (s.r32 .esp) 4 p1 s1 → s.HoldsBytes p1 (toBytesLE newEip.toNat 4) →
    s1.Maps .read .ss (s.r32 .esp + 4) 4 p2 s2 → s.HoldsBytes p2 (toBytesLE newCs.toNat 4) →
    s2.Maps .read .ss (s.r32 .esp + 8) 4 p3 s3 → s.HoldsBytes p3 (toBytesLE image.toNat 4) →
    s.mode = .rm →
    ∃ t, exec .iret s = .next t ∧ t.eip = newEip ∧
      t.seg .cs = { s.seg .cs with sel := newCs.setWidth 16, base := BitVec.ofNat 32 (newCs.toNat % 65536 * 16),
                                   limit := 0xFFFF } ∧
      (∀ n, n ≠ .cs → t.seg n = s.seg n) ∧
      t.eflags = popFlags s.eflags image 0 ∧ t.r32 .esp = s.r32 .esp + 12 ∧ (∀ r, r ≠ .esp → t.r32 r = s.r32 r) ∧
      t = { s with gpr := t.gpr, segs := t.segs, eip := t.eip, eflags := t.eflags, tlb := s3.tlb, draws := s3.draws,
                   stored := [] }

/-- IRET in PM with NT = 0, wherever its twelve stack bytes can be read and VM would not be set at CPL 0: by the
descriptor lookup of the new CS it loads EIP, CS with its descriptor register, EFLAGS and ESP, when the CPL stays; stops
by name when the CPL would change; and raises the exception the lookup names, changing nothing. The translation buffer is
as the three reads and the lookup left it (R122, R160). Rests on log 7, 13, 18, 19, 32, 44. -/
def Obligations.IretInProtectedMode : Prop :=
  ∀ (s s1 s2 s3 : State) (p1 p2 p3 : List Nat) (newEip newCs image : Word),
    s.Maps .read .ss (s.r32 .esp) 4 p1 s1 → s.HoldsBytes p1 (toBytesLE newEip.toNat 4) →
    s1.Maps .read .ss (s.r32 .esp + 4) 4 p2 s2 → s.HoldsBytes p2 (toBytesLE newCs.toNat 4) →
    s2.Maps .read .ss (s.r32 .esp + 8) 4 p3 s3 → s.HoldsBytes p3 (toBytesLE image.toNat 4) →
    s.mode = .pm → s.nt = false → (s.cpl = 0 → image.getLsbD 17 = false) →
    match s3.lookup (newCs.setWidth 16) .code with
    | .ok b l a c =>
      if c = s.cpl then
        ∃ t, exec .iret s = .next t ∧ t.eip = newEip ∧ t.seg .cs = ⟨newCs.setWidth 16, b, l, a⟩ ∧
          (∀ n, n ≠ .cs → t.seg n = s.seg n) ∧
          t.eflags = popFlags s.eflags image s.cpl ∧ t.r32 .esp = s.r32 .esp + 12 ∧
          (∀ r, r ≠ .esp → t.r32 r = s.r32 r) ∧
          t = { s with gpr := t.gpr, segs := t.segs, eip := t.eip, eflags := t.eflags, tlb := s3.afterLookup.tlb,
                       draws := s3.draws, stored := [] }
      else exec .iret s = .refused .interLevelReturnNotModelled
    | .fault v => exec .iret s = .next (s.raised v)

/-- Where the spec is silent IRET stops by name: in V86 mode, in PM with NT = 1, and in PM at CPL 0 with NT = 0 where a
readable frame would set VM (R122). Rests on log 44. -/
def Obligations.IretStopsByName : Prop :=
  ∀ s : State,
    (s.mode = .v86 → exec .iret s = .refused .v86IretNotInSource) ∧
    (s.mode = .pm → s.nt = true → exec .iret s = .refused .taskReturnNotModelled) ∧
    (∀ (s1 s2 s3 : State) (p1 p2 p3 : List Nat) (newEip newCs image : Word),
      s.mode = .pm → s.nt = false → s.cpl = 0 → image.getLsbD 17 = true →
      s.Maps .read .ss (s.r32 .esp) 4 p1 s1 → s.HoldsBytes p1 (toBytesLE newEip.toNat 4) →
      s1.Maps .read .ss (s.r32 .esp + 4) 4 p2 s2 → s.HoldsBytes p2 (toBytesLE newCs.toNat 4) →
      s2.Maps .read .ss (s.r32 .esp + 8) 4 p3 s3 → s.HoldsBytes p3 (toBytesLE image.toNat 4) →
      exec .iret s = .refused .v86EntryNotModelled)

/-- Far JMP, far CALL and INT have no meaning in the spec and are refused by the spec's name (R123).
Rests on log 44. -/
def Obligations.TransfersAreRefused : Prop :=
  ∀ (s : State) (off : Word) (sel : Half) (v : Byte),
    exec (.jmpFar off sel) s = .refused .controlTransferNotInSource ∧
    exec (.callFar off sel) s = .refused .controlTransferNotInSource ∧
    exec (.intImm v) s = .refused .controlTransferNotInSource

/-! ## I/O -/

/-- An input completes where the IOPL check passes: AL or EAX takes some value, which nothing here fixes, and every other
register, flag (but RF) and byte of memory stays (R124). Rests on log 5, 29. -/
def Obligations.InputsComplete : Prop :=
  ∀ (s : State) (port : Byte), s.IoAllowed →
    (∃ v : Byte, exec (.inAlImm port) s = .next ({ s.setR8 .al v with draws := s.draws + 1 }.past 2)) ∧
    (∃ v : Byte, exec .inAlDx s = .next ({ s.setR8 .al v with draws := s.draws + 1 }.past 1)) ∧
    (∃ v : Word, exec (.inEaxImm port) s = .next ({ s.setR32 .eax v with draws := s.draws + 1 }.past 2)) ∧
    (∃ v : Word, exec .inEaxDx s = .next ({ s.setR32 .eax v with draws := s.draws + 1 }.past 1))

/-- An output completes where the IOPL check passes and changes no state but EIP and RF (R124). Rests on log 29. -/
def Obligations.OutputsComplete : Prop :=
  ∀ (s : State) (port : Byte), s.IoAllowed →
    exec (.outImmAl port) s = .next (s.past 2) ∧ exec (.outImmEax port) s = .next (s.past 2) ∧
    exec .outDxAl s = .next (s.past 1) ∧ exec .outDxEax s = .next (s.past 1)

/-- In PM and V86 all eight I/O instructions raise exception 13 when CPL is above IOPL, and change nothing (R25 a, R124).
Rests on log 29. -/
def Obligations.IoTrapsAboveIopl : Prop :=
  ∀ (s : State) (port : Byte), ¬ s.IoAllowed →
    ∀ i ∈ [Instr.inAlImm port, .inEaxImm port, .outImmAl port, .outImmEax port, .inAlDx, .inEaxDx, .outDxAl, .outDxEax],
      exec i s = .next (s.raised 13)

/-! ## Control registers -/

/-- MOV r32, CRn: CR0 reads with bits 30:5 as 0, CR2 whole, CR3 with bits 31:12 and free low bits; nothing else changes
but EIP and RF (R140). Rests on log 23, 24. -/
def Obligations.ControlRegisterStores : Prop :=
  ∀ (s : State) (rd : Reg), s.allowed .control .store = true →
    exec (.movR32Cr rd 0) s = .next ((s.setR32 rd (s.cr0 &&& 0x8000001F)).past 3) ∧
    exec (.movR32Cr rd 2) s = .next ((s.setR32 rd s.cr2).past 3) ∧
    (∃ low : Nat, low < 4096 ∧ exec (.movR32Cr rd 3) s =
      .next ({ s.setR32 rd (BitVec.ofNat 32 (s.cr3.toNat * 4096 + low)) with draws := s.draws + 1 }.past 3))

/-- MOV CRn, r32: CR0 takes PG, ET, TS, EM, MP and PE, unless PG would be set without PE; CR2 takes all 32 bits; CR3 takes
bits 31:12 and the translation buffer is emptied; nothing else changes but EIP and RF (R141).
Rests on log 20, 23, 24. -/
def Obligations.ControlRegisterLoads : Prop :=
  ∀ (s : State) (rs : Reg), s.allowed .control .load = true →
    ((s.r32 rs).getLsbD 31 = true ∧ (s.r32 rs).getLsbD 0 = false →
      exec (.movCrR32 0 rs) s = .refused .pagingWithoutProtection) ∧
    ((s.r32 rs).getLsbD 31 = false ∨ (s.r32 rs).getLsbD 0 = true →
      exec (.movCrR32 0 rs) s = .next ({ s with cr0 := s.r32 rs &&& 0x8000001F }.past 3)) ∧
    exec (.movCrR32 2 rs) s = .next ({ s with cr2 := s.r32 rs }.past 3) ∧
    exec (.movCrR32 3 rs) s =
      .next ({ s with cr3 := BitVec.ofNat 20 ((s.r32 rs).toNat / 4096), tlb := [] }.past 3)

/-- LMSW (0F 01 11110rrr), in RM or in PM at CPL 0, loads MP, EM and TS from bits 1 to 3 of its operand and can set PE but
never clear it; ET, PG and bits 30:5 of CR0 and everything else stay. In PM at another level and in V86 it raises
exception 13 and changes nothing (R142). Rests on log 30. -/
def Obligations.LmswLoadsLowBits : Prop :=
  ∀ (s : State) (rs : Reg),
    decodeBytes [0x0F, 0x01, BitVec.ofNat 8 (0xF0 + rs.num.toNat)] = .done (.lmsw rs) ∧
    (s.mode = .rm ∨ (s.mode = .pm ∧ s.cpl = 0) →
      ∃ t, exec (.lmsw rs) s = .next t ∧
        t.pe = (s.pe || (s.r16 rs).getLsbD 0) ∧ t.mp = (s.r16 rs).getLsbD 1 ∧ t.em = (s.r16 rs).getLsbD 2 ∧
        t.ts = (s.r16 rs).getLsbD 3 ∧ (∀ i < 32, 4 ≤ i → t.cr0.getLsbD i = s.cr0.getLsbD i) ∧
        t = { s with cr0 := t.cr0 }.past 3) ∧
    (s.mode = .v86 ∨ (s.mode = .pm ∧ s.cpl ≠ 0) → exec (.lmsw rs) s = .next (s.raised 13))

/-- WAIT (9B) raises exception 7 exactly when MP = 1 and TS = 1, whatever EM is; otherwise it does nothing but move on (R144).
Rests on log 30. -/
def Obligations.WaitTrapsOnMpAndTs : Prop :=
  decodeBytes [0x9B] = .done .wait ∧
  ∀ s : State,
    (s.mp = true ∧ s.ts = true → exec .wait s = .next (s.raised 7)) ∧
    (¬ (s.mp = true ∧ s.ts = true) → exec .wait s = .next (s.past 1))

/-- A coprocessor instruction raises exception 7 when EM = 1, or when TS = 1 and MP = 1, and is refused otherwise (R145,
with the spec's default `ESC_TRAP_TS` = 1). Rests on log 15, 30. -/
def Obligations.EscTrapsOnEmOrTsMp : Prop :=
  ∀ (s : State) (x : BitVec 3),
    (s.em = true ∨ (s.ts = true ∧ s.mp = true) → exec (.esc x) s = .next (s.raised 7)) ∧
    (¬ (s.em = true ∨ (s.ts = true ∧ s.mp = true)) → exec (.esc x) s = .refused .coprocessorNotModelled)

/-! ## Segment and system address registers -/

/-- MOV Sreg, r16 in RM and V86 loads the selector, base = selector * 16 and limit FFFF; in PM it loads what the
descriptor lookup answers, or raises the exception it names; only that segment register, EIP and RF change, and in PM the
translation buffer as the lookup leaves it, which with paging off is as it was (R160, R169). Rests on log 7, 31, 32. -/
def Obligations.SegmentLoads : Prop :=
  ∀ (s : State) (sreg : BitVec 3) (rs : Reg) (n : SegName), SegName.ofNum sreg = some n → n ≠ .cs →
    (s.mode ≠ .pm → exec (.movSegR16 sreg rs) s = .next ((s.setSeg n
      { s.seg n with sel := s.r16 rs, base := BitVec.ofNat 32 ((s.r16 rs).toNat * 16), limit := 0xFFFF }).past 2)) ∧
    (s.mode = .pm →
      match s.lookup (s.r16 rs) (if n = .ss then .stack else .data) with
      | .ok b l a _ => exec (.movSegR16 sreg rs) s =
          .next (({ s with tlb := s.afterLookup.tlb }.setSeg n ⟨s.r16 rs, b, l, a⟩).past 2)
      | .fault v => exec (.movSegR16 sreg rs) s = .next (s.raised v)) ∧
    (s.pagingOn = false → s.afterLookup.tlb = s.tlb)

/-- MOV r16, Sreg (8C 11sssrrr) stores the selector of any of the six segment registers, ES CS SS DS FS GS = 0 to 5, in
every mode; bits 31:16 of the destination stay, and nothing else changes but EIP and RF; the numbers 6 and 7 are refused
(R170). Rests on log 14, 40. -/
def Obligations.SegmentStores : Prop :=
  ∀ (s : State) (rd : Reg) (sreg : BitVec 3),
    decodeBytes [0x8C, BitVec.ofNat 8 (0xC0 + 8 * sreg.toNat + rd.num.toNat)] = .done (.movR16Seg rd sreg) ∧
    (∀ n, (sreg, n) ∈ [(0, SegName.es), (1, .cs), (2, .ss), (3, .ds), (4, .fs), (5, .gs)] →
      ∃ t, exec (.movR16Seg rd sreg) s = .next t ∧ t.r16 rd = (s.seg n).sel ∧
        (t.r32 rd).toNat / 65536 = (s.r32 rd).toNat / 65536 ∧ (∀ r, r ≠ rd → t.r32 r = s.r32 r) ∧
        t = { s with gpr := t.gpr }.past 2) ∧
    (6 ≤ sreg.toNat → exec (.movR16Seg rd sreg) s = .refused .reservedRegister)

/-- LGDT and LIDT, where they are allowed and the six bytes can be read, load the limit from bytes 0 and 1 and the base
from bytes 2 to 5; nothing else changes but EIP and RF (R161, R163). Rests on log 12, 14. -/
def Obligations.TableRegisterLoads : Prop :=
  ∀ (s s1 : State) (disp : Word) (ps : List Nat) (limit : Half) (base : Word),
    s.Maps .read .ds disp 6 ps s1 → s.HoldsBytes ps (toBytesLE limit.toNat 2 ++ toBytesLE base.toNat 4) →
    (s.allowed .gdtr .load = true →
      exec (.lgdt disp) s = .next ({ s with gdtr := ⟨base, limit⟩, tlb := s1.tlb, draws := s1.draws }.past 7)) ∧
    (s.allowed .idtr .load = true →
      exec (.lidt disp) s = .next ({ s with idtr := ⟨base, limit⟩, tlb := s1.tlb, draws := s1.draws }.past 7))

/-- SGDT and SIDT, in every mode and at every level where the six bytes can be written, store the limit at bytes 0 and 1
and the base at bytes 2 to 5; the six addresses join the record of stored bytes, the translation buffer is as the
translations left it, and no other byte and no register changes but EIP and RF (R93, R162, R164).
Rests on log 12, 14, 18, 19. -/
def Obligations.TableRegisterStores : Prop :=
  ∀ (s s1 : State) (disp : Word) (ps : List Nat), s.Maps .write .ds disp 6 ps s1 →
    ∀ (i : Instr) (t : TableReg), (i = .sgdt disp ∧ t = s.gdtr) ∨ (i = .sidt disp ∧ t = s.idtr) →
      ∃ u, exec i s = .next u ∧
        ps.map u.mem.byteAt = (toBytesLE t.limit.toNat 2 ++ toBytesLE t.base.toNat 4).map some ∧
        (∀ a, a ∉ ps → u.mem.byteAt a = s.mem.byteAt a) ∧
        u = { s with mem := u.mem, stored := addAddrs s.stored ps, tlb := s1.tlb, draws := s1.draws }.past 7

/-- LLDT and LTR in PM at CPL 0 load the selector and what the descriptor lookup answers, or raise the exception it names;
nothing else changes but EIP, RF and the translation buffer as the lookup leaves it (R165, R167). The lookup sees memory
only at the linear addresses of the tables of GDTR and LDTR, base to base + limit: with paging off at those addresses,
with paging on through the translation of each page; with paging off no other byte counts (R95, R160).
Rests on log 7, 32. -/
def Obligations.SystemSegmentLoads : Prop :=
  ∀ (s : State) (rs : Reg),
    (s.mode = .pm → s.cpl = 0 →
      (match s.lookup (s.r16 rs) .ldt with
        | .ok b l a _ =>
          exec (.lldt rs) s = .next ({ s with ldtr := ⟨s.r16 rs, b, l, a⟩, tlb := s.afterLookup.tlb }.past 3)
        | .fault v => exec (.lldt rs) s = .next (s.raised v)) ∧
      (match s.lookup (s.r16 rs) .tss with
        | .ok b l a _ =>
          exec (.ltr rs) s = .next ({ s with tr := ⟨s.r16 rs, b, l, a⟩, tlb := s.afterLookup.tlb }.past 3)
        | .fault v => exec (.ltr rs) s = .next (s.raised v))) ∧
    (∀ a : Word, s.gdtr.limit.toNat < (a - s.gdtr.base).toNat → s.ldtr.limit.toNat < (a - s.ldtr.base).toNat →
      s.descMemory a = none) ∧
    (∀ a : Word, (a - s.gdtr.base).toNat ≤ s.gdtr.limit.toNat ∨ (a - s.ldtr.base).toNat ≤ s.ldtr.limit.toNat →
      (s.pagingOn = false → s.isInstalled a.toNat = true → s.descMemory a = s.mem.byteAt a.toNat) ∧
      (∀ frame : BitVec 20, s.pagingOn = true → s.staleWalks (a.extractLsb' 12 20) .read s.curCpl = [] →
        s.walk (a.extractLsb' 12 20) .read s.curCpl = some frame →
        s.isInstalled (frame ++ a.extractLsb' 0 12).toNat = true →
        s.descMemory a = s.mem.byteAt (frame ++ a.extractLsb' 0 12).toNat)) ∧
    (∀ (m : Memory) (sel : Half) (use : SegUse), s.pagingOn = false →
      (∀ a : Word, (a - s.gdtr.base).toNat ≤ s.gdtr.limit.toNat ∨ (a - s.ldtr.base).toNat ≤ s.ldtr.limit.toNat →
        m.byteAt a.toNat = s.mem.byteAt a.toNat) →
      ({ s with mem := m } : State).lookup sel use = s.lookup sel use)

/-- SLDT (0F 00 11000rrr) and STR (0F 00 11001rrr) in PM store the selector at every level; in RM they raise exception 6
and in V86 exception 13, changing nothing (R166, R168). Rests on log 28, 40. -/
def Obligations.SystemSegmentStores : Prop :=
  ∀ (s : State) (rd : Reg),
    decodeBytes [0x0F, 0x00, BitVec.ofNat 8 (0xC0 + rd.num.toNat)] = .done (.sldt rd) ∧
    decodeBytes [0x0F, 0x00, BitVec.ofNat 8 (0xC8 + rd.num.toNat)] = .done (.str rd) ∧
    (s.mode = .pm → exec (.sldt rd) s = .next ((s.setR16 rd s.ldtr.sel).past 3) ∧
      exec (.str rd) s = .next ((s.setR16 rd s.tr.sel).past 3)) ∧
    (s.mode = .rm → exec (.sldt rd) s = .next (s.raised 6) ∧ exec (.str rd) s = .next (s.raised 6)) ∧
    (s.mode = .v86 → exec (.sldt rd) s = .next (s.raised 13) ∧ exec (.str rd) s = .next (s.raised 13))

/-! ## Debug and test registers -/

/-- MOV to and from DR0 to DR3, DR6 and DR7, where it is allowed: the zero bits of DR6 and DR7 read 0 and ignore writes;
only the destination, EIP and RF change (R180, R181). Rests on log 23. -/
def Obligations.DebugRegisterMoves : Prop :=
  ∀ (s : State) (r : Reg),
    (s.allowed .debug .store = true →
      exec (.movR32Dr r 0) s = .next ((s.setR32 r s.dr0).past 3) ∧
      exec (.movR32Dr r 1) s = .next ((s.setR32 r s.dr1).past 3) ∧
      exec (.movR32Dr r 2) s = .next ((s.setR32 r s.dr2).past 3) ∧
      exec (.movR32Dr r 3) s = .next ((s.setR32 r s.dr3).past 3) ∧
      exec (.movR32Dr r 6) s = .next ((s.setR32 r (s.dr6 &&& 0x0000E00F)).past 3) ∧
      exec (.movR32Dr r 7) s = .next ((s.setR32 r (s.dr7 &&& 0xFFFF03FF)).past 3)) ∧
    (s.allowed .debug .load = true →
      exec (.movDrR32 0 r) s = .next ({ s with dr0 := s.r32 r }.past 3) ∧
      exec (.movDrR32 1 r) s = .next ({ s with dr1 := s.r32 r }.past 3) ∧
      exec (.movDrR32 2 r) s = .next ({ s with dr2 := s.r32 r }.past 3) ∧
      exec (.movDrR32 3 r) s = .next ({ s with dr3 := s.r32 r }.past 3) ∧
      exec (.movDrR32 6 r) s = .next ({ s with dr6 := s.r32 r &&& 0x0000E00F }.past 3) ∧
      exec (.movDrR32 7 r) s = .next ({ s with dr7 := s.r32 r &&& 0xFFFF03FF }.past 3))

/-- MOV to and from TR6 and TR7, where it is allowed: plain storage, and only the destination, EIP and RF change (R182,
R183). Rests on log 37. -/
def Obligations.TestRegisterMoves : Prop :=
  ∀ (s : State) (r : Reg),
    (s.allowed .test .store = true →
      exec (.movR32Tr r 6) s = .next ((s.setR32 r s.tr6).past 3) ∧
      exec (.movR32Tr r 7) s = .next ((s.setR32 r s.tr7).past 3)) ∧
    (s.allowed .test .load = true →
      exec (.movTrR32 6 r) s = .next ({ s with tr6 := s.r32 r }.past 3) ∧
      exec (.movTrR32 7 r) s = .next ({ s with tr7 := s.r32 r }.past 3))

/-! ## Privilege -/

/-- The access check of the control, system address, debug and test registers, by mode and CPL, as the tables of R143,
R171 and R184 print it; flags as R71 reads it. Rests on log 27, 28. -/
def Obligations.AvailabilityByMode : Prop :=
  ∀ s : State,
    (s.allowed .control .load = true ↔ s.mode = .rm ∨ (s.mode = .pm ∧ s.cpl = 0)) ∧
    (s.allowed .control .store = true ↔ s.mode = .rm ∨ (s.mode = .pm ∧ s.cpl = 0) ∨ s.mode = .v86) ∧
    (s.allowed .segment .load = true ∧ s.allowed .segment .store = true) ∧
    (∀ g ∈ [RegGroup.gdtr, .idtr], (s.allowed g .load = true ↔ s.mode = .rm ∨ (s.mode = .pm ∧ s.cpl = 0)) ∧
      s.allowed g .store = true) ∧
    (∀ g ∈ [RegGroup.ldtr, .tr], (s.allowed g .load = true ↔ s.mode = .pm ∧ s.cpl = 0) ∧
      (s.allowed g .store = true ↔ s.mode = .pm)) ∧
    (∀ g ∈ [RegGroup.debug, .test], ∀ d, s.allowed g d = true ↔ s.mode = .rm ∨ (s.mode = .pm ∧ s.cpl = 0)) ∧
    (∀ d, s.allowed .flags d = true ↔ (s.mode = .v86 → s.iopl = 3))

/-- A denied access to a register that exists raises exception 13 in PM and V86 and exception 6 in RM, and changes nothing
(R203). Rests on log 28. -/
def Obligations.DeniedAccessTraps : Prop :=
  ∀ (s : State) (i : Instr) (g : RegGroup) (d : Direction), i.wellFormed = true →
    (∃ r n disp, (i = .movR32Cr r n ∧ g = .control ∧ d = .store) ∨ (i = .movCrR32 n r ∧ g = .control ∧ d = .load) ∨
      (i = .lmsw r ∧ g = .control ∧ d = .load) ∨ (i = .lgdt disp ∧ g = .gdtr ∧ d = .load) ∨
      (i = .lidt disp ∧ g = .idtr ∧ d = .load) ∨ (i = .lldt r ∧ g = .ldtr ∧ d = .load) ∨
      (i = .sldt r ∧ g = .ldtr ∧ d = .store) ∨ (i = .ltr r ∧ g = .tr ∧ d = .load) ∨
      (i = .str r ∧ g = .tr ∧ d = .store) ∨ (i = .movR32Dr r n ∧ g = .debug ∧ d = .store) ∨
      (i = .movDrR32 n r ∧ g = .debug ∧ d = .load) ∨ (i = .movR32Tr r n ∧ g = .test ∧ d = .store) ∨
      (i = .movTrR32 n r ∧ g = .test ∧ d = .load) ∨
      (i = .pushf ∧ g = .flags ∧ d = .store) ∨ (i = .popf ∧ g = .flags ∧ d = .load)) →
    s.allowed g d = false →
    exec i s = .next (s.raised (if s.mode = .rm then 6 else 13))

/-- An instruction that names a register that does not exist, or that loads CS by MOV, is refused by name in every state
(R48, R68, R108 b and c). Rests on log 43. -/
def Obligations.ReservedNumbersRefused : Prop :=
  ∀ (s : State) (i : Instr), i.wellFormed = false → exec i s = .refused .reservedRegister

/-- PM code at a level other than 0 changes no control register (but CR2 by a page miss), system address register, debug
or test register, and neither VM nor IOPL nor CPL, whatever instruction it executes; IF changes only where CPL is at most
IOPL (R70, R216). Rests on log 26, 27. -/
def Obligations.UnprivilegedCodeIsConfined : Prop :=
  ∀ (s t : State) (i : Instr), s.mode = .pm → s.cpl ≠ 0 → exec i s = .next t →
    s.SamePrivileged t ∧ (s.iopl.toNat < s.cpl.toNat → t.ifl = s.ifl) ∧
    (t.cr2 ≠ s.cr2 → ∃ a, t.trapped = some (.pageMiss a) ∧ t.cr2 = a)

/-- Modes change only as R217 lists: an instruction leaves RM only by LMSW or a load of CR0 that sets PE, leaves PM only by
a load of CR0 at CPL 0, never enters V86 from PM, never leaves V86; and it never changes the CPL component (R216).
Rests on log 27, 44. -/
def Obligations.ModeChanges : Prop :=
  ∀ (s t : State) (i : Instr), s.vm = false ∨ s.pe = true → exec i s = .next t →
    t.cpl = s.cpl ∧
    (s.mode = .rm → t.mode = .rm ∨ (t.mode = .pm ∧ ∃ r, i = .lmsw r ∨ i = .movCrR32 0 r)) ∧
    (s.mode = .pm → t.mode = .pm ∨ (t.mode = .rm ∧ s.cpl = 0 ∧ ∃ r, i = .movCrR32 0 r)) ∧
    (s.mode = .v86 → t.mode = .v86)

/-! ## Exceptions, debug unit, memory -/

/-- An instruction that raises an exception leaves the whole state as it was, except that a page miss leaves its address
in CR2 (R208, R214, R220). Rests on log 11, 36, 46. -/
def Obligations.ExceptionsArePrecise : Prop :=
  ∀ (s t : State) (i : Instr), s.trapped = none → exec i s = .next t → t.trapped ≠ none →
    (∃ a, t = { s with trapped := some (.pageMiss a), cr2 := a }) ∨ (∃ v, t = s.raised v)

/-- A completed instruction other than POPF and IRET clears RF and moves EIP past itself (R19, R23, R207, R219 step 5).
Rests on log 22. -/
def Obligations.CompletionClearsRfAndAdvances : Prop :=
  ∀ (s t : State) (i : Instr), s.trapped = none → exec i s = .next t → t.trapped = none → i ≠ .popf → i ≠ .iret →
    t.rf = false ∧ t.eip = s.eip + BitVec.ofNat 32 (encode i).length

/-- A completed POPF or IRET leaves RF as bit 16 of the image it popped (R23 c, R121, R122). Rests on log 13. -/
def Obligations.ImageDecidesRf : Prop :=
  ∀ (s t s1 : State) (ps : List Nat) (image : Word), s.trapped = none →
    (s.Maps .read .ss (s.r32 .esp) 4 ps s1 → s.HoldsBytes ps (toBytesLE image.toNat 4) →
      exec .popf s = .next t → t.trapped = none → t.rf = image.getLsbD 16) ∧
    (s.pagingOn = false → s.Maps .read .ss (s.r32 .esp + 8) 4 ps s1 → s.HoldsBytes ps (toBytesLE image.toNat 4) →
      exec .iret s = .next t → t.trapped = none → t.rf = image.getLsbD 16)

/-- Only PUSHF, SGDT and SIDT store, and they store only to the bytes their address gives: the translation of SS:ESP - 4,
or of DS:disp (R194). Rests on log 7, 9, 12. -/
def Obligations.OnlyStoresChangeMemory : Prop :=
  ∀ (s t : State) (i : Instr), exec i s = .next t →
    (i ≠ .pushf → (∀ d, i ≠ .sgdt d ∧ i ≠ .sidt d) → t.mem = s.mem) ∧
    (i = .pushf → ∀ ps s1, translateRange (pushfValue s).2 .write (linearAddr (s.seg .ss) (s.r32 .esp - 4)) 4
        = .ok (ps, s1) → ∀ a, a ∉ ps → t.mem.byteAt a = s.mem.byteAt a) ∧
    (∀ d, i = .sgdt d ∨ i = .sidt d → ∀ ps s1, translateRange s .write (linearAddr (s.seg .ds) d) 6 = .ok (ps, s1) →
      ∀ a, a ∉ ps → t.mem.byteAt a = s.mem.byteAt a)

/-- What a push stores a pop reads back, and ESP is as before, wherever the four bytes may be written and read (paging
off; R86, R96, R120). Rests on log 12, 13. -/
def Obligations.PopUndoesPush : Prop :=
  ∀ (s s1 : State) (v : Word), s.pagingOn = false → attrAllows (s.seg .ss).attr .read s.curCpl = true →
    push32 s v = .ok s1 → ∃ s2, pop32 s1 = .ok (v, s2) ∧ s2.gpr = s.gpr ∧ s2.mem = s1.mem

/-- An access out of a segment's bounds, counted on natural numbers without wrap-around, or denied by the segment's
attributes raises exception 13 and changes nothing: the stack access of PUSHF and POPF, each of IRET's three pops after
the ones before it were read, the operands of LGDT, LIDT, SGDT and SIDT, and the fetch of an instruction's first byte,
with paging off also of any later byte beyond CS.limit (R82, R83, R193, R219 step 3). Rests on log 13, 21, 22. -/
def Obligations.BoundsViolationTraps : Prop :=
  ∀ (s : State) (disp : Word),
    (s.allowed .flags .store = true → s.Barred .write .ss (s.r32 .esp - 4) 4 →
      exec .pushf s = .next (s.raised 13)) ∧
    (s.allowed .flags .load = true → s.Barred .read .ss (s.r32 .esp) 4 → exec .popf s = .next (s.raised 13)) ∧
    (s.mode ≠ .v86 → (s.mode = .pm → s.nt = false) →
      (s.Barred .read .ss (s.r32 .esp) 4 → exec .iret s = .next (s.raised 13)) ∧
      (∀ (s1 : State) (p1 : List Nat) (b1 : List Byte),
        s.Maps .read .ss (s.r32 .esp) 4 p1 s1 → s.HoldsBytes p1 b1 →
        (s.Barred .read .ss (s.r32 .esp + 4) 4 → exec .iret s = .next (s.raised 13)) ∧
        (∀ (s2 : State) (p2 : List Nat) (b2 : List Byte),
          s1.Maps .read .ss (s.r32 .esp + 4) 4 p2 s2 → s.HoldsBytes p2 b2 →
          s.Barred .read .ss (s.r32 .esp + 8) 4 → exec .iret s = .next (s.raised 13)))) ∧
    (s.allowed .gdtr .load = true → s.Barred .read .ds disp 6 → exec (.lgdt disp) s = .next (s.raised 13)) ∧
    (s.allowed .idtr .load = true → s.Barred .read .ds disp 6 → exec (.lidt disp) s = .next (s.raised 13)) ∧
    (s.Barred .write .ds disp 6 →
      exec (.sgdt disp) s = .next (s.raised 13) ∧ exec (.sidt disp) s = .next (s.raised 13)) ∧
    (s.ReadyToFetch → s.Barred .execute .cs s.eip 1 → step s = .next (s.raised 13)) ∧
    (∀ bs : List Byte, s.ReadyToFetch → s.CodeAt bs → FetchGoesOn bs → decodeBytes bs = .more →
      (s.seg .cs).limit.toNat < s.eip.toNat + bs.length → step s = .next (s.raised 13))

/-- A page for which the translation buffer holds no answer other than the tables' present one, such as a page not used
since the last CR3 load, is translated by the tables as they are in memory, and counts as used from then on; where they
do not map it, the access raises a page miss. A POPF whose first byte's page is such a page and is not mapped changes
nothing but CR2, which takes that byte's linear address (R84, R94, R208). Rests on log 9, 19. -/
def Obligations.PageMissLeavesAddress : Prop :=
  ∀ (s : State), s.trapped = none → s.pagingOn = true →
    (∀ kind lin, s.staleWalks (lin.extractLsb' 12 20) kind s.curCpl = [] →
      match s.walk (lin.extractLsb' 12 20) kind s.curCpl with
      | none => Sys2Proof.Machine.translate s kind lin = .error (.raise (.pageMiss lin))
      | some frame => Sys2Proof.Machine.translate s kind lin
          = .ok (frame ++ lin.extractLsb' 0 12, s.rememberPage (lin.extractLsb' 12 20))) ∧
    (∀ page : BitVec 20, (∀ e ∈ s.tlb, e.page ≠ page) → ∀ kind, s.staleWalks page kind s.curCpl = []) ∧
    (s.allowed .flags .load = true → (s.r32 .esp).toNat + 4 ≤ (s.seg .ss).limit.toNat + 1 →
      attrAllows (s.seg .ss).attr .read s.curCpl = true →
      s.staleWalks (((s.seg .ss).base + s.r32 .esp).extractLsb' 12 20) .read s.curCpl = [] →
      match s.walk (((s.seg .ss).base + s.r32 .esp).extractLsb' 12 20) .read s.curCpl with
      | none => exec .popf s = .next { s with trapped := some (.pageMiss ((s.seg .ss).base + s.r32 .esp)),
                                              cr2 := (s.seg .ss).base + s.r32 .esp }
      | some _ => ∀ t, exec .popf s = .next t → t.trapped ≠ some (.pageMiss ((s.seg .ss).base + s.r32 .esp)))

/-- An instruction byte that the program has stored to since launch or since the last control transfer is not executed:
the step is refused when the fetch reaches it, whichever byte of the instruction it is (R93; paging off).
Rests on log 18. -/
def Obligations.StoredByteIsNotFetched : Prop :=
  ∀ (s : State) (bs : List Byte), s.ReadyToFetch → s.CodeAt bs → FetchGoesOn bs → decodeBytes bs = .more →
    s.eip.toNat + bs.length ≤ (s.seg .cs).limit.toNat → (s.fetchLinear bs.length).toNat ∈ s.stored →
    step s = .refused .storedByteFetched

/-- An external interrupt is taken at an instruction boundary exactly when IF = 1 and the environment requests it; the
state at the boundary is kept (R209, R219 step 1). Rests on log 6, 11, 36. -/
def Obligations.InterruptTakenOnlyWithIf : Prop :=
  ∀ s : State, s.trapped = none →
    (s.ifl = true → s.intrNow = true → step s = .next { s with trapped := some .externalInterrupt }) ∧
    (s.ifl = false ∨ s.intrNow = false → ∀ t, step s = .next t → t.trapped ≠ some .externalInterrupt)

/-- An enabled instruction breakpoint at the instruction's first byte is reported before it executes when RF = 0: DR6 gains
the B bit of every such breakpoint, enabled or not, and nothing else changes. The B bit of a breakpoint in an undefined
configuration, disabled here, may be set too, by a free value (R206, R207, R219 step 2). Rests on log 33, 34. -/
def Obligations.InstructionBreakpointFaults : Prop :=
  ∀ s : State, s.trapped = none → (s.ifl = true → s.intrNow = false) →
    (∀ n < 4, s.breakEnabled n = true → s.breakUndefined n = false) →
    s.rf = false → (∃ n < 4, s.breakEnabled n = true ∧ s.breakKind n = 0 ∧ s.breakAddr n = s.fetchLinear 0) →
    ∃ t, step s = .next t ∧ t = { s with trapped := some .debugException, dr6 := t.dr6, draws := t.draws } ∧
      (∀ n < 4, s.breakUndefined n = false → t.dr6.getLsbD n =
        (s.dr6.getLsbD n || (s.breakKind n == 0 && s.breakAddr n == s.fetchLinear 0))) ∧
      (∀ j < 32, s.dr6.getLsbD j = true → t.dr6.getLsbD j = true) ∧
      (∀ j < 32, 4 ≤ j → t.dr6.getLsbD j = s.dr6.getLsbD j) ∧
      ((∀ n < 4, s.breakUndefined n = false) → t.draws = s.draws)

/-- With TF = 1 at the start of an instruction that completes, the debug exception follows it with BS set; EIP is at the
next instruction and the instruction's effects stand. The B bits of the data breakpoints it hit are merged, enabled or
not, and the other bits of DR6 stay; only that of a breakpoint in an undefined configuration may be set by a free value
(R205, R206, R219 step 6 and its notes). Rests on log 33, 34, 35. -/
def Obligations.SingleStepTrapsAfterInstruction : Prop :=
  ∀ (s s1 t : State) (i : Instr), s.ReadyToFetch → fetch s = .ok (i, s1) → s.tf = true → exec i s1 = .next t →
    t.trapped = none →
    ∃ u, step s = .next u ∧ u = { t with trapped := some .debugException, dr6 := u.dr6, draws := u.draws } ∧
      u.dr6.getLsbD 14 = true ∧
      (∀ n < 4, t.breakUndefined n = false →
        u.dr6.getLsbD n = (t.dr6.getLsbD n || (dataAccesses i s1).any (t.dataCond n))) ∧
      (∀ j < 32, t.dr6.getLsbD j = true → u.dr6.getLsbD j = true) ∧
      (∀ j < 32, 4 ≤ j → j ≠ 14 → u.dr6.getLsbD j = t.dr6.getLsbD j) ∧
      ((∀ n < 4, t.breakUndefined n = false) → u.draws = t.draws)

/-- An enabled data breakpoint that an instruction hits is reported after it completes: DR6 gains the B bit of every
breakpoint whose condition holds, enabled or not, BS only with TF = 1, and its other bits stay; only the B bit of a
breakpoint in an undefined configuration may be set by a free value (R206, R219 step 6). Rests on log 33, 34, 35. -/
def Obligations.DataBreakpointTrapsAfterInstruction : Prop :=
  ∀ (s s1 t : State) (i : Instr), s.ReadyToFetch → fetch s = .ok (i, s1) → exec i s1 = .next t → t.trapped = none →
    (∃ n < 4, t.breakEnabled n = true ∧ ∃ x ∈ dataAccesses i s1, t.dataCond n x = true) →
    ∃ u, step s = .next u ∧ u = { t with trapped := some .debugException, dr6 := u.dr6, draws := u.draws } ∧
      u.dr6.getLsbD 14 = (t.dr6.getLsbD 14 || s.tf) ∧
      (∀ n < 4, t.breakUndefined n = false →
        u.dr6.getLsbD n = (t.dr6.getLsbD n || (dataAccesses i s1).any (t.dataCond n))) ∧
      (∀ j < 32, t.dr6.getLsbD j = true → u.dr6.getLsbD j = true) ∧
      (∀ j < 32, 4 ≤ j → j ≠ 14 → u.dr6.getLsbD j = t.dr6.getLsbD j) ∧
      ((∀ n < 4, t.breakUndefined n = false) → u.draws = t.draws)

/-- A data breakpoint's condition: kind 01 holds for a write and not for a read, kind 11 for both, kind 00 for no data
access; and the access must share a byte with the range of 1, 2 or 4 bytes that LEN 00, 01 or 11 gives. The data accesses
are the four stack bytes of PUSHF and POPF, the three pops of IRET, and the six bytes of LGDT, LIDT, SGDT and SIDT; no
other instruction makes one (R57, R58, R194, R206). Rests on log 33, 34. -/
def Obligations.DataConditionByKindAndRange : Prop :=
  (∀ (s : State) (n : Nat) (x : DataAccess), s.breakUndefined n = false →
    (s.dataCond n x = true ↔
      ((s.breakKind n = 1 ∧ x.kind = .write) ∨ (s.breakKind n = 3 ∧ x.kind ≠ .execute)) ∧
      ∃ len, (s.breakLenCode n, len) ∈ [((0 : BitVec 2), 1), (1, 2), (3, 4)] ∧ ∃ i < x.size, ∃ j < len,
        x.addr + BitVec.ofNat 32 i = s.breakAddr n + BitVec.ofNat 32 j)) ∧
  (∀ (s : State) (d : Word),
    dataAccesses .pushf s = [⟨.write, (s.seg .ss).base + (s.r32 .esp - 4), 4⟩] ∧
    dataAccesses .popf s = [⟨.read, (s.seg .ss).base + s.r32 .esp, 4⟩] ∧
    dataAccesses .iret s = [⟨.read, (s.seg .ss).base + s.r32 .esp, 4⟩,
      ⟨.read, (s.seg .ss).base + (s.r32 .esp + 4), 4⟩, ⟨.read, (s.seg .ss).base + (s.r32 .esp + 8), 4⟩] ∧
    (∀ i ∈ [Instr.lgdt d, .lidt d], dataAccesses i s = [⟨.read, (s.seg .ds).base + d, 6⟩]) ∧
    (∀ i ∈ [Instr.sgdt d, .sidt d], dataAccesses i s = [⟨.write, (s.seg .ds).base + d, 6⟩])) ∧
  (∀ (s : State) (i : Instr), i ≠ .pushf → i ≠ .popf → i ≠ .iret →
    (∀ d, i ≠ .lgdt d ∧ i ≠ .lidt d ∧ i ≠ .sgdt d ∧ i ≠ .sidt d) → dataAccesses i s = [])

/-- No step clears a bit of DR6, but the step of a `MOV DR6, r32` (R67). For the B bit of a disabled breakpoint in an
undefined configuration, which R206 makes a free value, that is the model's choice (log 34). -/
def Obligations.Dr6BitsStay : Prop :=
  ∀ (s t : State), step s = .next t → (∀ i s1, fetch s = .ok (i, s1) → ∀ r, i ≠ .movDrR32 6 r) →
    ∀ j < 32, s.dr6.getLsbD j = true → t.dr6.getLsbD j = true

/-- An enabled breakpoint in an undefined configuration stops the machine by name (R206, R219 step 2).
Rests on log 34, 36. -/
def Obligations.UndefinedBreakpointStops : Prop :=
  ∀ s : State, s.trapped = none → (s.ifl = true → s.intrNow = false) →
    (∃ n < 4, s.breakEnabled n = true ∧
      (s.breakKind n = 2 ∨ s.breakLenCode n = 2 ∨ (s.breakKind n = 0 ∧ s.breakLenCode n ≠ 0) ∨
        (s.breakAddr n).toNat % lenBytes (s.breakLenCode n) ≠ 0)) →
    step s = .refused .undefinedBreakpoint

/-- The effects R221 gives a task switch: the incoming task's registers and flags, with IOPL and RF from its image and NT as
asked; TS set, L0 to L3 of DR7 cleared and its other bits kept; its CPL; a new CR3, where the switch gives one, with an
empty translation buffer, else both kept; the record of stored bytes emptied; everything else kept; and with T = 1 a
debug exception with BT, no bit of DR6 cleared and no other set but the B bit of a breakpoint in an undefined
configuration. What is saved of the outgoing task is its registers and its flags with VM. The operation stands alone:
every instruction that would switch tasks is refused. Rests on log 34, 38. -/
def Obligations.TaskSwitchEffects : Prop :=
  ∀ (s : State) (t : TaskImage) (nested : Bool) (newCr3 : Option (BitVec 20)),
    let u := s.switchTask t nested newCr3
    u = { s with gpr := t.gpr, segs := t.segs, eip := t.eip, eflags := u.eflags, cr0 := u.cr0, ldtr := t.ldtr, tr := t.tr,
                 dr6 := u.dr6, dr7 := u.dr7, cpl := t.cpl, cr3 := newCr3.getD s.cr3,
                 tlb := if newCr3 = none then s.tlb else [], stored := [], trapped := u.trapped, draws := u.draws } ∧
    (∀ i < 32, u.eflags.getLsbD i =
      if i = 14 then nested else if i = 1 then true
      else if i ∈ [0, 2, 4, 6, 7, 8, 9, 10, 11, 12, 13, 16, 17] then t.eflags.getLsbD i else false) ∧
    u.ts = true ∧ (∀ i < 32, i ≠ 3 → u.cr0.getLsbD i = s.cr0.getLsbD i) ∧
    (∀ i < 32, u.dr7.getLsbD i = (s.dr7.getLsbD i && !(i == 0 || i == 2 || i == 4 || i == 6))) ∧
    (t.debugTrap = true → u.trapped = some .debugException ∧ u.dr6.getLsbD 15 = true ∧
      (∀ n < 4, u.breakUndefined n = false → u.dr6.getLsbD n = s.dr6.getLsbD n) ∧
      (∀ j < 32, s.dr6.getLsbD j = true → u.dr6.getLsbD j = true) ∧
      (∀ j < 32, 4 ≤ j → j ≠ 15 → u.dr6.getLsbD j = s.dr6.getLsbD j) ∧
      ((∀ n < 4, u.breakUndefined n = false) → u.draws = s.draws)) ∧
    (t.debugTrap = false → u.trapped = s.trapped ∧ u.dr6 = s.dr6 ∧ u.draws = s.draws) ∧
    s.savedTask.gpr = s.gpr ∧ s.savedTask.segs = s.segs ∧ s.savedTask.eip = s.eip ∧ s.savedTask.ldtr = s.ldtr ∧
    s.savedTask.tr = s.tr ∧ s.savedTask.cpl = s.curCpl ∧
    (∀ i < 32, s.savedTask.eflags.getLsbD i = (i == 1 || (s.eflags.getLsbD i &&
      decide (i ∈ [0, 2, 4, 6, 7, 8, 9, 10, 11, 12, 13, 14, 16, 17]))))
end

