-- ==== Sys2Proof/Laws/Memory.lean ====
section
/-! SUPPORT. Memory: a read after a write gives the byte written, a write leaves every other address alone, and every
write keeps the canonical form; the stored-to record likewise; the byte order reads back what it stores. -/

namespace Sys2Proof.Machine

theorem Memory.byteAt_setByte_same (m : Memory) (a : Nat) (v : Byte) : (m.setByte a v).byteAt a = some v := by
  induction m with
  | nil => simp [Memory.setByte, Memory.byteAt]
  | cons c rest ih =>
    obtain ⟨x, b⟩ := c
    simp only [Memory.setByte]
    split
    · simp [Memory.byteAt]
    · split
      · simp_all [Memory.byteAt]
      · simp_all [Memory.byteAt]

theorem Memory.byteAt_setByte_other (m : Memory) (a x : Nat) (v : Byte) (h : x ≠ a) :
    (m.setByte a v).byteAt x = m.byteAt x := by
  induction m with
  | nil => simp [Memory.setByte, Memory.byteAt, h]
  | cons c rest ih =>
    obtain ⟨y, b⟩ := c
    simp only [Memory.setByte]
    split
    · simp [Memory.byteAt, h]
    · split
      · simp_all [Memory.byteAt]
      · simp only [Memory.byteAt, ih]

theorem Memory.byteAt_setBytes_other (ps : List Nat) (m : Memory) (bs : List Byte) (x : Nat) (h : x ∉ ps) :
    (m.setBytes ps bs).byteAt x = m.byteAt x := by
  induction ps generalizing m bs with
  | nil => cases bs <;> rfl
  | cons a as ih =>
    cases bs with
    | nil => rfl
    | cons b bs =>
      simp only [List.mem_cons, not_or] at h
      simp only [Memory.setBytes]
      rw [ih _ _ h.2, Memory.byteAt_setByte_other _ _ _ _ h.1]

theorem Memory.allAbove_setByte (lo : Nat) (m : Memory) (a : Nat) (v : Byte) (hm : m.allAbove lo = true)
    (ha : lo < a) : (m.setByte a v).allAbove lo = true := by
  induction m with
  | nil => simp [Memory.setByte, Memory.allAbove, ha]
  | cons c rest ih =>
    obtain ⟨y, b⟩ := c
    simp only [Memory.allAbove, List.all_cons, Bool.and_eq_true, decide_eq_true_eq] at hm
    simp only [Memory.setByte]
    split
    · simp only [Memory.allAbove, List.all_cons, Bool.and_eq_true, decide_eq_true_eq]
      exact ⟨ha, hm.1, hm.2⟩
    · split
      · simp only [Memory.allAbove, List.all_cons, Bool.and_eq_true, decide_eq_true_eq]
        exact ⟨hm.1, hm.2⟩
      · simp only [Memory.allAbove, List.all_cons, Bool.and_eq_true, decide_eq_true_eq]
        exact ⟨hm.1, ih hm.2⟩

theorem Memory.allAbove_mono (lo hi : Nat) (m : Memory) (h : m.allAbove hi = true) (hl : lo ≤ hi) :
    m.allAbove lo = true := by
  simp only [Memory.allAbove, List.all_eq_true, decide_eq_true_eq] at h ⊢
  exact fun c hc => lt_of_le_of_lt hl (h c hc)

theorem Memory.wf_setByte (m : Memory) (a : Nat) (v : Byte) (hm : m.wf = true) (ha : a < addressSpace) :
    (m.setByte a v).wf = true := by
  induction m with
  | nil => simp [Memory.setByte, Memory.wf, Memory.allAbove, ha]
  | cons c rest ih =>
    obtain ⟨y, b⟩ := c
    have hm' := hm
    simp only [Memory.wf, Bool.and_eq_true, decide_eq_true_eq] at hm
    obtain ⟨⟨hy, hab⟩, hr⟩ := hm
    simp only [Memory.setByte]
    split
    · rename_i hlt
      rw [Memory.wf, hm', Bool.and_true, Bool.and_eq_true]
      refine ⟨decide_eq_true ha, ?_⟩
      simp only [Memory.allAbove, List.all_cons, Bool.and_eq_true, decide_eq_true_eq]
      exact ⟨hlt, Memory.allAbove_mono _ _ _ hab hlt.le⟩
    · split
      · simp only [Memory.wf, Bool.and_eq_true, decide_eq_true_eq]
        exact ⟨⟨hy, hab⟩, hr⟩
      · simp only [Memory.wf, Bool.and_eq_true, decide_eq_true_eq]
        exact ⟨⟨hy, Memory.allAbove_setByte _ _ _ _ hab (by omega)⟩, ih hr⟩

/-- Every store keeps the canonical form. -/
theorem Memory.wf_setBytes (ps : List Nat) (m : Memory) (bs : List Byte) (hm : m.wf = true)
    (hp : ∀ a ∈ ps, a < addressSpace) : (m.setBytes ps bs).wf = true := by
  induction ps generalizing m bs with
  | nil => cases bs <;> exact hm
  | cons a as ih =>
    cases bs with
    | nil => exact hm
    | cons b bs =>
      simp only [Memory.setBytes]
      exact ih _ _ (Memory.wf_setByte _ _ _ hm (hp a (by simp))) (fun x hx => hp x (by simp [hx]))

theorem addAddr_above (lo : Nat) (l : List Nat) (x : Nat) (hl : l.all (fun y => decide (lo < y)) = true)
    (hx : lo < x) : (addAddr l x).all (fun y => decide (lo < y)) = true := by
  induction l with
  | nil => simp [addAddr, hx]
  | cons a rest ih =>
    simp only [List.all_cons, Bool.and_eq_true, decide_eq_true_eq] at hl
    simp only [addAddr]
    split
    · simp only [List.all_cons, Bool.and_eq_true, decide_eq_true_eq]
      exact ⟨hx, hl.1, hl.2⟩
    · split
      · simp only [List.all_cons, Bool.and_eq_true, decide_eq_true_eq]
        exact ⟨hl.1, hl.2⟩
      · simp only [List.all_cons, Bool.and_eq_true, decide_eq_true_eq]
        exact ⟨hl.1, ih hl.2⟩

theorem storedWf_addAddr (l : List Nat) (x : Nat) (hl : storedWf l = true) (hx : x < addressSpace) :
    storedWf (addAddr l x) = true := by
  induction l with
  | nil => simp [addAddr, storedWf, hx]
  | cons a rest ih =>
    have hl' := hl
    simp only [storedWf, Bool.and_eq_true, decide_eq_true_eq] at hl
    obtain ⟨⟨ha, hab⟩, hr⟩ := hl
    simp only [addAddr]
    split
    · rename_i hlt
      rw [storedWf, hl', Bool.and_true, Bool.and_eq_true]
      refine ⟨decide_eq_true hx, ?_⟩
      simp only [List.all_eq_true, decide_eq_true_eq] at hab
      simp only [List.all_cons, Bool.and_eq_true, decide_eq_true_eq, List.all_eq_true]
      exact ⟨hlt, fun y hy => hlt.trans (hab y hy)⟩
    · split
      · exact hl'
      · simp only [storedWf, Bool.and_eq_true, decide_eq_true_eq]
        exact ⟨⟨ha, addAddr_above _ _ _ hab (by omega)⟩, ih hr⟩

/-- Recording stored addresses keeps the record's canonical form. -/
theorem storedWf_addAddrs (xs l : List Nat) (hl : storedWf l = true) (hx : ∀ x ∈ xs, x < addressSpace) :
    storedWf (addAddrs l xs) = true := by
  induction xs generalizing l with
  | nil => exact hl
  | cons x xs ih =>
    exact ih _ (storedWf_addAddr _ _ hl (hx x (by simp))) (fun y hy => hx y (by simp [hy]))

@[simp] theorem toBytesLE_length (v n : Nat) : (toBytesLE v n).length = n := by
  induction n generalizing v with
  | zero => rfl
  | succ n ih => simp [toBytesLE, ih]

/-- Reading back the bytes of a number gives the number, as far as the bytes go (R86). -/
theorem fromBytesLE_toBytesLE (v n : Nat) : fromBytesLE (toBytesLE v n) = v % 256 ^ n := by
  induction n generalizing v with
  | zero => simp [toBytesLE, fromBytesLE, Nat.mod_one]
  | succ n ih =>
    simp only [toBytesLE, fromBytesLE, ih, BitVec.toNat_ofNat]
    show v % 256 + 256 * (v / 256 % 256 ^ n) = v % 256 ^ (n + 1)
    rw [pow_succ', Nat.mod_mul]

end Sys2Proof.Machine
end

