-- ==== Sys2Proof/Laws/State.lean ====
section
/-! SUPPORT. One lemma per field of State per named update, true by rfl, so that no proof unfolds a record update; and the
read-after-write laws of the register files. -/

namespace Sys2Proof.Machine

section
variable (s : State)

@[simp] theorem State.setR32_gpr (r : Reg) (v : Word) : (s.setR32 r v).gpr = s.gpr.set r v := rfl
@[simp] theorem State.setR32_segs (r : Reg) (v : Word) : (s.setR32 r v).segs = s.segs := rfl
@[simp] theorem State.setR32_eip (r : Reg) (v : Word) : (s.setR32 r v).eip = s.eip := rfl
@[simp] theorem State.setR32_eflags (r : Reg) (v : Word) : (s.setR32 r v).eflags = s.eflags := rfl
@[simp] theorem State.setR32_cr0 (r : Reg) (v : Word) : (s.setR32 r v).cr0 = s.cr0 := rfl
@[simp] theorem State.setR32_cr2 (r : Reg) (v : Word) : (s.setR32 r v).cr2 = s.cr2 := rfl
@[simp] theorem State.setR32_cr3 (r : Reg) (v : Word) : (s.setR32 r v).cr3 = s.cr3 := rfl
@[simp] theorem State.setR32_gdtr (r : Reg) (v : Word) : (s.setR32 r v).gdtr = s.gdtr := rfl
@[simp] theorem State.setR32_idtr (r : Reg) (v : Word) : (s.setR32 r v).idtr = s.idtr := rfl
@[simp] theorem State.setR32_ldtr (r : Reg) (v : Word) : (s.setR32 r v).ldtr = s.ldtr := rfl
@[simp] theorem State.setR32_tr (r : Reg) (v : Word) : (s.setR32 r v).tr = s.tr := rfl
@[simp] theorem State.setR32_dr0 (r : Reg) (v : Word) : (s.setR32 r v).dr0 = s.dr0 := rfl
@[simp] theorem State.setR32_dr1 (r : Reg) (v : Word) : (s.setR32 r v).dr1 = s.dr1 := rfl
@[simp] theorem State.setR32_dr2 (r : Reg) (v : Word) : (s.setR32 r v).dr2 = s.dr2 := rfl
@[simp] theorem State.setR32_dr3 (r : Reg) (v : Word) : (s.setR32 r v).dr3 = s.dr3 := rfl
@[simp] theorem State.setR32_dr6 (r : Reg) (v : Word) : (s.setR32 r v).dr6 = s.dr6 := rfl
@[simp] theorem State.setR32_dr7 (r : Reg) (v : Word) : (s.setR32 r v).dr7 = s.dr7 := rfl
@[simp] theorem State.setR32_tr6 (r : Reg) (v : Word) : (s.setR32 r v).tr6 = s.tr6 := rfl
@[simp] theorem State.setR32_tr7 (r : Reg) (v : Word) : (s.setR32 r v).tr7 = s.tr7 := rfl
@[simp] theorem State.setR32_cpl (r : Reg) (v : Word) : (s.setR32 r v).cpl = s.cpl := rfl
@[simp] theorem State.setR32_tlb (r : Reg) (v : Word) : (s.setR32 r v).tlb = s.tlb := rfl
@[simp] theorem State.setR32_trapped (r : Reg) (v : Word) : (s.setR32 r v).trapped = s.trapped := rfl
@[simp] theorem State.setR32_mem (r : Reg) (v : Word) : (s.setR32 r v).mem = s.mem := rfl
@[simp] theorem State.setR32_installed (r : Reg) (v : Word) : (s.setR32 r v).installed = s.installed := rfl
@[simp] theorem State.setR32_stored (r : Reg) (v : Word) : (s.setR32 r v).stored = s.stored := rfl
@[simp] theorem State.setR32_intrLine (r : Reg) (v : Word) : (s.setR32 r v).intrLine = s.intrLine := rfl
@[simp] theorem State.setR32_draws (r : Reg) (v : Word) : (s.setR32 r v).draws = s.draws := rfl

@[simp] theorem State.setR16_gpr (r : Reg) (v : Half) : (s.setR16 r v).gpr = s.gpr.set r (withLow16 (s.r32 r) v) := rfl
@[simp] theorem State.setR16_segs (r : Reg) (v : Half) : (s.setR16 r v).segs = s.segs := rfl
@[simp] theorem State.setR16_eip (r : Reg) (v : Half) : (s.setR16 r v).eip = s.eip := rfl
@[simp] theorem State.setR16_eflags (r : Reg) (v : Half) : (s.setR16 r v).eflags = s.eflags := rfl
@[simp] theorem State.setR16_cr0 (r : Reg) (v : Half) : (s.setR16 r v).cr0 = s.cr0 := rfl
@[simp] theorem State.setR16_cr2 (r : Reg) (v : Half) : (s.setR16 r v).cr2 = s.cr2 := rfl
@[simp] theorem State.setR16_cr3 (r : Reg) (v : Half) : (s.setR16 r v).cr3 = s.cr3 := rfl
@[simp] theorem State.setR16_gdtr (r : Reg) (v : Half) : (s.setR16 r v).gdtr = s.gdtr := rfl
@[simp] theorem State.setR16_idtr (r : Reg) (v : Half) : (s.setR16 r v).idtr = s.idtr := rfl
@[simp] theorem State.setR16_ldtr (r : Reg) (v : Half) : (s.setR16 r v).ldtr = s.ldtr := rfl
@[simp] theorem State.setR16_tr (r : Reg) (v : Half) : (s.setR16 r v).tr = s.tr := rfl
@[simp] theorem State.setR16_dr0 (r : Reg) (v : Half) : (s.setR16 r v).dr0 = s.dr0 := rfl
@[simp] theorem State.setR16_dr1 (r : Reg) (v : Half) : (s.setR16 r v).dr1 = s.dr1 := rfl
@[simp] theorem State.setR16_dr2 (r : Reg) (v : Half) : (s.setR16 r v).dr2 = s.dr2 := rfl
@[simp] theorem State.setR16_dr3 (r : Reg) (v : Half) : (s.setR16 r v).dr3 = s.dr3 := rfl
@[simp] theorem State.setR16_dr6 (r : Reg) (v : Half) : (s.setR16 r v).dr6 = s.dr6 := rfl
@[simp] theorem State.setR16_dr7 (r : Reg) (v : Half) : (s.setR16 r v).dr7 = s.dr7 := rfl
@[simp] theorem State.setR16_tr6 (r : Reg) (v : Half) : (s.setR16 r v).tr6 = s.tr6 := rfl
@[simp] theorem State.setR16_tr7 (r : Reg) (v : Half) : (s.setR16 r v).tr7 = s.tr7 := rfl
@[simp] theorem State.setR16_cpl (r : Reg) (v : Half) : (s.setR16 r v).cpl = s.cpl := rfl
@[simp] theorem State.setR16_tlb (r : Reg) (v : Half) : (s.setR16 r v).tlb = s.tlb := rfl
@[simp] theorem State.setR16_trapped (r : Reg) (v : Half) : (s.setR16 r v).trapped = s.trapped := rfl
@[simp] theorem State.setR16_mem (r : Reg) (v : Half) : (s.setR16 r v).mem = s.mem := rfl
@[simp] theorem State.setR16_installed (r : Reg) (v : Half) : (s.setR16 r v).installed = s.installed := rfl
@[simp] theorem State.setR16_stored (r : Reg) (v : Half) : (s.setR16 r v).stored = s.stored := rfl
@[simp] theorem State.setR16_intrLine (r : Reg) (v : Half) : (s.setR16 r v).intrLine = s.intrLine := rfl
@[simp] theorem State.setR16_draws (r : Reg) (v : Half) : (s.setR16 r v).draws = s.draws := rfl

@[simp] theorem State.setR8_gpr (r : Reg8) (v : Byte) : (s.setR8 r v).gpr = s.gpr.set (parentOf r) (withByte (s.r32 (parentOf r)) (isHighByte r) v) := rfl
@[simp] theorem State.setR8_segs (r : Reg8) (v : Byte) : (s.setR8 r v).segs = s.segs := rfl
@[simp] theorem State.setR8_eip (r : Reg8) (v : Byte) : (s.setR8 r v).eip = s.eip := rfl
@[simp] theorem State.setR8_eflags (r : Reg8) (v : Byte) : (s.setR8 r v).eflags = s.eflags := rfl
@[simp] theorem State.setR8_cr0 (r : Reg8) (v : Byte) : (s.setR8 r v).cr0 = s.cr0 := rfl
@[simp] theorem State.setR8_cr2 (r : Reg8) (v : Byte) : (s.setR8 r v).cr2 = s.cr2 := rfl
@[simp] theorem State.setR8_cr3 (r : Reg8) (v : Byte) : (s.setR8 r v).cr3 = s.cr3 := rfl
@[simp] theorem State.setR8_gdtr (r : Reg8) (v : Byte) : (s.setR8 r v).gdtr = s.gdtr := rfl
@[simp] theorem State.setR8_idtr (r : Reg8) (v : Byte) : (s.setR8 r v).idtr = s.idtr := rfl
@[simp] theorem State.setR8_ldtr (r : Reg8) (v : Byte) : (s.setR8 r v).ldtr = s.ldtr := rfl
@[simp] theorem State.setR8_tr (r : Reg8) (v : Byte) : (s.setR8 r v).tr = s.tr := rfl
@[simp] theorem State.setR8_dr0 (r : Reg8) (v : Byte) : (s.setR8 r v).dr0 = s.dr0 := rfl
@[simp] theorem State.setR8_dr1 (r : Reg8) (v : Byte) : (s.setR8 r v).dr1 = s.dr1 := rfl
@[simp] theorem State.setR8_dr2 (r : Reg8) (v : Byte) : (s.setR8 r v).dr2 = s.dr2 := rfl
@[simp] theorem State.setR8_dr3 (r : Reg8) (v : Byte) : (s.setR8 r v).dr3 = s.dr3 := rfl
@[simp] theorem State.setR8_dr6 (r : Reg8) (v : Byte) : (s.setR8 r v).dr6 = s.dr6 := rfl
@[simp] theorem State.setR8_dr7 (r : Reg8) (v : Byte) : (s.setR8 r v).dr7 = s.dr7 := rfl
@[simp] theorem State.setR8_tr6 (r : Reg8) (v : Byte) : (s.setR8 r v).tr6 = s.tr6 := rfl
@[simp] theorem State.setR8_tr7 (r : Reg8) (v : Byte) : (s.setR8 r v).tr7 = s.tr7 := rfl
@[simp] theorem State.setR8_cpl (r : Reg8) (v : Byte) : (s.setR8 r v).cpl = s.cpl := rfl
@[simp] theorem State.setR8_tlb (r : Reg8) (v : Byte) : (s.setR8 r v).tlb = s.tlb := rfl
@[simp] theorem State.setR8_trapped (r : Reg8) (v : Byte) : (s.setR8 r v).trapped = s.trapped := rfl
@[simp] theorem State.setR8_mem (r : Reg8) (v : Byte) : (s.setR8 r v).mem = s.mem := rfl
@[simp] theorem State.setR8_installed (r : Reg8) (v : Byte) : (s.setR8 r v).installed = s.installed := rfl
@[simp] theorem State.setR8_stored (r : Reg8) (v : Byte) : (s.setR8 r v).stored = s.stored := rfl
@[simp] theorem State.setR8_intrLine (r : Reg8) (v : Byte) : (s.setR8 r v).intrLine = s.intrLine := rfl
@[simp] theorem State.setR8_draws (r : Reg8) (v : Byte) : (s.setR8 r v).draws = s.draws := rfl

@[simp] theorem State.setSeg_gpr (n : SegName) (v : SegReg) : (s.setSeg n v).gpr = s.gpr := rfl
@[simp] theorem State.setSeg_segs (n : SegName) (v : SegReg) : (s.setSeg n v).segs = s.segs.set n v := rfl
@[simp] theorem State.setSeg_eip (n : SegName) (v : SegReg) : (s.setSeg n v).eip = s.eip := rfl
@[simp] theorem State.setSeg_eflags (n : SegName) (v : SegReg) : (s.setSeg n v).eflags = s.eflags := rfl
@[simp] theorem State.setSeg_cr0 (n : SegName) (v : SegReg) : (s.setSeg n v).cr0 = s.cr0 := rfl
@[simp] theorem State.setSeg_cr2 (n : SegName) (v : SegReg) : (s.setSeg n v).cr2 = s.cr2 := rfl
@[simp] theorem State.setSeg_cr3 (n : SegName) (v : SegReg) : (s.setSeg n v).cr3 = s.cr3 := rfl
@[simp] theorem State.setSeg_gdtr (n : SegName) (v : SegReg) : (s.setSeg n v).gdtr = s.gdtr := rfl
@[simp] theorem State.setSeg_idtr (n : SegName) (v : SegReg) : (s.setSeg n v).idtr = s.idtr := rfl
@[simp] theorem State.setSeg_ldtr (n : SegName) (v : SegReg) : (s.setSeg n v).ldtr = s.ldtr := rfl
@[simp] theorem State.setSeg_tr (n : SegName) (v : SegReg) : (s.setSeg n v).tr = s.tr := rfl
@[simp] theorem State.setSeg_dr0 (n : SegName) (v : SegReg) : (s.setSeg n v).dr0 = s.dr0 := rfl
@[simp] theorem State.setSeg_dr1 (n : SegName) (v : SegReg) : (s.setSeg n v).dr1 = s.dr1 := rfl
@[simp] theorem State.setSeg_dr2 (n : SegName) (v : SegReg) : (s.setSeg n v).dr2 = s.dr2 := rfl
@[simp] theorem State.setSeg_dr3 (n : SegName) (v : SegReg) : (s.setSeg n v).dr3 = s.dr3 := rfl
@[simp] theorem State.setSeg_dr6 (n : SegName) (v : SegReg) : (s.setSeg n v).dr6 = s.dr6 := rfl
@[simp] theorem State.setSeg_dr7 (n : SegName) (v : SegReg) : (s.setSeg n v).dr7 = s.dr7 := rfl
@[simp] theorem State.setSeg_tr6 (n : SegName) (v : SegReg) : (s.setSeg n v).tr6 = s.tr6 := rfl
@[simp] theorem State.setSeg_tr7 (n : SegName) (v : SegReg) : (s.setSeg n v).tr7 = s.tr7 := rfl
@[simp] theorem State.setSeg_cpl (n : SegName) (v : SegReg) : (s.setSeg n v).cpl = s.cpl := rfl
@[simp] theorem State.setSeg_tlb (n : SegName) (v : SegReg) : (s.setSeg n v).tlb = s.tlb := rfl
@[simp] theorem State.setSeg_trapped (n : SegName) (v : SegReg) : (s.setSeg n v).trapped = s.trapped := rfl
@[simp] theorem State.setSeg_mem (n : SegName) (v : SegReg) : (s.setSeg n v).mem = s.mem := rfl
@[simp] theorem State.setSeg_installed (n : SegName) (v : SegReg) : (s.setSeg n v).installed = s.installed := rfl
@[simp] theorem State.setSeg_stored (n : SegName) (v : SegReg) : (s.setSeg n v).stored = s.stored := rfl
@[simp] theorem State.setSeg_intrLine (n : SegName) (v : SegReg) : (s.setSeg n v).intrLine = s.intrLine := rfl
@[simp] theorem State.setSeg_draws (n : SegName) (v : SegReg) : (s.setSeg n v).draws = s.draws := rfl

@[simp] theorem State.retire_gpr (n : Nat) : (s.retire n).gpr = s.gpr := rfl
@[simp] theorem State.retire_segs (n : Nat) : (s.retire n).segs = s.segs := rfl
@[simp] theorem State.retire_eip (n : Nat) : (s.retire n).eip = s.eip + BitVec.ofNat 32 n := rfl
@[simp] theorem State.retire_eflags (n : Nat) : (s.retire n).eflags = s.eflags &&& ~~~rfMask := rfl
@[simp] theorem State.retire_cr0 (n : Nat) : (s.retire n).cr0 = s.cr0 := rfl
@[simp] theorem State.retire_cr2 (n : Nat) : (s.retire n).cr2 = s.cr2 := rfl
@[simp] theorem State.retire_cr3 (n : Nat) : (s.retire n).cr3 = s.cr3 := rfl
@[simp] theorem State.retire_gdtr (n : Nat) : (s.retire n).gdtr = s.gdtr := rfl
@[simp] theorem State.retire_idtr (n : Nat) : (s.retire n).idtr = s.idtr := rfl
@[simp] theorem State.retire_ldtr (n : Nat) : (s.retire n).ldtr = s.ldtr := rfl
@[simp] theorem State.retire_tr (n : Nat) : (s.retire n).tr = s.tr := rfl
@[simp] theorem State.retire_dr0 (n : Nat) : (s.retire n).dr0 = s.dr0 := rfl
@[simp] theorem State.retire_dr1 (n : Nat) : (s.retire n).dr1 = s.dr1 := rfl
@[simp] theorem State.retire_dr2 (n : Nat) : (s.retire n).dr2 = s.dr2 := rfl
@[simp] theorem State.retire_dr3 (n : Nat) : (s.retire n).dr3 = s.dr3 := rfl
@[simp] theorem State.retire_dr6 (n : Nat) : (s.retire n).dr6 = s.dr6 := rfl
@[simp] theorem State.retire_dr7 (n : Nat) : (s.retire n).dr7 = s.dr7 := rfl
@[simp] theorem State.retire_tr6 (n : Nat) : (s.retire n).tr6 = s.tr6 := rfl
@[simp] theorem State.retire_tr7 (n : Nat) : (s.retire n).tr7 = s.tr7 := rfl
@[simp] theorem State.retire_cpl (n : Nat) : (s.retire n).cpl = s.cpl := rfl
@[simp] theorem State.retire_tlb (n : Nat) : (s.retire n).tlb = s.tlb := rfl
@[simp] theorem State.retire_trapped (n : Nat) : (s.retire n).trapped = s.trapped := rfl
@[simp] theorem State.retire_mem (n : Nat) : (s.retire n).mem = s.mem := rfl
@[simp] theorem State.retire_installed (n : Nat) : (s.retire n).installed = s.installed := rfl
@[simp] theorem State.retire_stored (n : Nat) : (s.retire n).stored = s.stored := rfl
@[simp] theorem State.retire_intrLine (n : Nat) : (s.retire n).intrLine = s.intrLine := rfl
@[simp] theorem State.retire_draws (n : Nat) : (s.retire n).draws = s.draws := rfl

@[simp] theorem State.retireKeepRf_gpr (n : Nat) : (s.retireKeepRf n).gpr = s.gpr := rfl
@[simp] theorem State.retireKeepRf_segs (n : Nat) : (s.retireKeepRf n).segs = s.segs := rfl
@[simp] theorem State.retireKeepRf_eip (n : Nat) : (s.retireKeepRf n).eip = s.eip + BitVec.ofNat 32 n := rfl
@[simp] theorem State.retireKeepRf_eflags (n : Nat) : (s.retireKeepRf n).eflags = s.eflags := rfl
@[simp] theorem State.retireKeepRf_cr0 (n : Nat) : (s.retireKeepRf n).cr0 = s.cr0 := rfl
@[simp] theorem State.retireKeepRf_cr2 (n : Nat) : (s.retireKeepRf n).cr2 = s.cr2 := rfl
@[simp] theorem State.retireKeepRf_cr3 (n : Nat) : (s.retireKeepRf n).cr3 = s.cr3 := rfl
@[simp] theorem State.retireKeepRf_gdtr (n : Nat) : (s.retireKeepRf n).gdtr = s.gdtr := rfl
@[simp] theorem State.retireKeepRf_idtr (n : Nat) : (s.retireKeepRf n).idtr = s.idtr := rfl
@[simp] theorem State.retireKeepRf_ldtr (n : Nat) : (s.retireKeepRf n).ldtr = s.ldtr := rfl
@[simp] theorem State.retireKeepRf_tr (n : Nat) : (s.retireKeepRf n).tr = s.tr := rfl
@[simp] theorem State.retireKeepRf_dr0 (n : Nat) : (s.retireKeepRf n).dr0 = s.dr0 := rfl
@[simp] theorem State.retireKeepRf_dr1 (n : Nat) : (s.retireKeepRf n).dr1 = s.dr1 := rfl
@[simp] theorem State.retireKeepRf_dr2 (n : Nat) : (s.retireKeepRf n).dr2 = s.dr2 := rfl
@[simp] theorem State.retireKeepRf_dr3 (n : Nat) : (s.retireKeepRf n).dr3 = s.dr3 := rfl
@[simp] theorem State.retireKeepRf_dr6 (n : Nat) : (s.retireKeepRf n).dr6 = s.dr6 := rfl
@[simp] theorem State.retireKeepRf_dr7 (n : Nat) : (s.retireKeepRf n).dr7 = s.dr7 := rfl
@[simp] theorem State.retireKeepRf_tr6 (n : Nat) : (s.retireKeepRf n).tr6 = s.tr6 := rfl
@[simp] theorem State.retireKeepRf_tr7 (n : Nat) : (s.retireKeepRf n).tr7 = s.tr7 := rfl
@[simp] theorem State.retireKeepRf_cpl (n : Nat) : (s.retireKeepRf n).cpl = s.cpl := rfl
@[simp] theorem State.retireKeepRf_tlb (n : Nat) : (s.retireKeepRf n).tlb = s.tlb := rfl
@[simp] theorem State.retireKeepRf_trapped (n : Nat) : (s.retireKeepRf n).trapped = s.trapped := rfl
@[simp] theorem State.retireKeepRf_mem (n : Nat) : (s.retireKeepRf n).mem = s.mem := rfl
@[simp] theorem State.retireKeepRf_installed (n : Nat) : (s.retireKeepRf n).installed = s.installed := rfl
@[simp] theorem State.retireKeepRf_stored (n : Nat) : (s.retireKeepRf n).stored = s.stored := rfl
@[simp] theorem State.retireKeepRf_intrLine (n : Nat) : (s.retireKeepRf n).intrLine = s.intrLine := rfl
@[simp] theorem State.retireKeepRf_draws (n : Nat) : (s.retireKeepRf n).draws = s.draws := rfl

@[simp] theorem State.draw_gpr : s.draw.gpr = s.gpr := rfl
@[simp] theorem State.draw_segs : s.draw.segs = s.segs := rfl
@[simp] theorem State.draw_eip : s.draw.eip = s.eip := rfl
@[simp] theorem State.draw_eflags : s.draw.eflags = s.eflags := rfl
@[simp] theorem State.draw_cr0 : s.draw.cr0 = s.cr0 := rfl
@[simp] theorem State.draw_cr2 : s.draw.cr2 = s.cr2 := rfl
@[simp] theorem State.draw_cr3 : s.draw.cr3 = s.cr3 := rfl
@[simp] theorem State.draw_gdtr : s.draw.gdtr = s.gdtr := rfl
@[simp] theorem State.draw_idtr : s.draw.idtr = s.idtr := rfl
@[simp] theorem State.draw_ldtr : s.draw.ldtr = s.ldtr := rfl
@[simp] theorem State.draw_tr : s.draw.tr = s.tr := rfl
@[simp] theorem State.draw_dr0 : s.draw.dr0 = s.dr0 := rfl
@[simp] theorem State.draw_dr1 : s.draw.dr1 = s.dr1 := rfl
@[simp] theorem State.draw_dr2 : s.draw.dr2 = s.dr2 := rfl
@[simp] theorem State.draw_dr3 : s.draw.dr3 = s.dr3 := rfl
@[simp] theorem State.draw_dr6 : s.draw.dr6 = s.dr6 := rfl
@[simp] theorem State.draw_dr7 : s.draw.dr7 = s.dr7 := rfl
@[simp] theorem State.draw_tr6 : s.draw.tr6 = s.tr6 := rfl
@[simp] theorem State.draw_tr7 : s.draw.tr7 = s.tr7 := rfl
@[simp] theorem State.draw_cpl : s.draw.cpl = s.cpl := rfl
@[simp] theorem State.draw_tlb : s.draw.tlb = s.tlb := rfl
@[simp] theorem State.draw_trapped : s.draw.trapped = s.trapped := rfl
@[simp] theorem State.draw_mem : s.draw.mem = s.mem := rfl
@[simp] theorem State.draw_installed : s.draw.installed = s.installed := rfl
@[simp] theorem State.draw_stored : s.draw.stored = s.stored := rfl
@[simp] theorem State.draw_intrLine : s.draw.intrLine = s.intrLine := rfl
@[simp] theorem State.draw_draws : s.draw.draws = s.draws + 1 := rfl

@[simp] theorem State.storePhys_gpr (ps : List Nat) (bs : List Byte) : (s.storePhys ps bs).gpr = s.gpr := rfl
@[simp] theorem State.storePhys_segs (ps : List Nat) (bs : List Byte) : (s.storePhys ps bs).segs = s.segs := rfl
@[simp] theorem State.storePhys_eip (ps : List Nat) (bs : List Byte) : (s.storePhys ps bs).eip = s.eip := rfl
@[simp] theorem State.storePhys_eflags (ps : List Nat) (bs : List Byte) : (s.storePhys ps bs).eflags = s.eflags := rfl
@[simp] theorem State.storePhys_cr0 (ps : List Nat) (bs : List Byte) : (s.storePhys ps bs).cr0 = s.cr0 := rfl
@[simp] theorem State.storePhys_cr2 (ps : List Nat) (bs : List Byte) : (s.storePhys ps bs).cr2 = s.cr2 := rfl
@[simp] theorem State.storePhys_cr3 (ps : List Nat) (bs : List Byte) : (s.storePhys ps bs).cr3 = s.cr3 := rfl
@[simp] theorem State.storePhys_gdtr (ps : List Nat) (bs : List Byte) : (s.storePhys ps bs).gdtr = s.gdtr := rfl
@[simp] theorem State.storePhys_idtr (ps : List Nat) (bs : List Byte) : (s.storePhys ps bs).idtr = s.idtr := rfl
@[simp] theorem State.storePhys_ldtr (ps : List Nat) (bs : List Byte) : (s.storePhys ps bs).ldtr = s.ldtr := rfl
@[simp] theorem State.storePhys_tr (ps : List Nat) (bs : List Byte) : (s.storePhys ps bs).tr = s.tr := rfl
@[simp] theorem State.storePhys_dr0 (ps : List Nat) (bs : List Byte) : (s.storePhys ps bs).dr0 = s.dr0 := rfl
@[simp] theorem State.storePhys_dr1 (ps : List Nat) (bs : List Byte) : (s.storePhys ps bs).dr1 = s.dr1 := rfl
@[simp] theorem State.storePhys_dr2 (ps : List Nat) (bs : List Byte) : (s.storePhys ps bs).dr2 = s.dr2 := rfl
@[simp] theorem State.storePhys_dr3 (ps : List Nat) (bs : List Byte) : (s.storePhys ps bs).dr3 = s.dr3 := rfl
@[simp] theorem State.storePhys_dr6 (ps : List Nat) (bs : List Byte) : (s.storePhys ps bs).dr6 = s.dr6 := rfl
@[simp] theorem State.storePhys_dr7 (ps : List Nat) (bs : List Byte) : (s.storePhys ps bs).dr7 = s.dr7 := rfl
@[simp] theorem State.storePhys_tr6 (ps : List Nat) (bs : List Byte) : (s.storePhys ps bs).tr6 = s.tr6 := rfl
@[simp] theorem State.storePhys_tr7 (ps : List Nat) (bs : List Byte) : (s.storePhys ps bs).tr7 = s.tr7 := rfl
@[simp] theorem State.storePhys_cpl (ps : List Nat) (bs : List Byte) : (s.storePhys ps bs).cpl = s.cpl := rfl
@[simp] theorem State.storePhys_tlb (ps : List Nat) (bs : List Byte) : (s.storePhys ps bs).tlb = s.tlb := rfl
@[simp] theorem State.storePhys_trapped (ps : List Nat) (bs : List Byte) : (s.storePhys ps bs).trapped = s.trapped := rfl
@[simp] theorem State.storePhys_mem (ps : List Nat) (bs : List Byte) : (s.storePhys ps bs).mem = s.mem.setBytes ps bs := rfl
@[simp] theorem State.storePhys_installed (ps : List Nat) (bs : List Byte) : (s.storePhys ps bs).installed = s.installed := rfl
@[simp] theorem State.storePhys_stored (ps : List Nat) (bs : List Byte) : (s.storePhys ps bs).stored = addAddrs s.stored ps := rfl
@[simp] theorem State.storePhys_intrLine (ps : List Nat) (bs : List Byte) : (s.storePhys ps bs).intrLine = s.intrLine := rfl
@[simp] theorem State.storePhys_draws (ps : List Nat) (bs : List Byte) : (s.storePhys ps bs).draws = s.draws := rfl

@[simp] theorem State.nextBoundary_gpr : s.nextBoundary.gpr = s.gpr := rfl
@[simp] theorem State.nextBoundary_segs : s.nextBoundary.segs = s.segs := rfl
@[simp] theorem State.nextBoundary_eip : s.nextBoundary.eip = s.eip := rfl
@[simp] theorem State.nextBoundary_eflags : s.nextBoundary.eflags = s.eflags := rfl
@[simp] theorem State.nextBoundary_cr0 : s.nextBoundary.cr0 = s.cr0 := rfl
@[simp] theorem State.nextBoundary_cr2 : s.nextBoundary.cr2 = s.cr2 := rfl
@[simp] theorem State.nextBoundary_cr3 : s.nextBoundary.cr3 = s.cr3 := rfl
@[simp] theorem State.nextBoundary_gdtr : s.nextBoundary.gdtr = s.gdtr := rfl
@[simp] theorem State.nextBoundary_idtr : s.nextBoundary.idtr = s.idtr := rfl
@[simp] theorem State.nextBoundary_ldtr : s.nextBoundary.ldtr = s.ldtr := rfl
@[simp] theorem State.nextBoundary_tr : s.nextBoundary.tr = s.tr := rfl
@[simp] theorem State.nextBoundary_dr0 : s.nextBoundary.dr0 = s.dr0 := rfl
@[simp] theorem State.nextBoundary_dr1 : s.nextBoundary.dr1 = s.dr1 := rfl
@[simp] theorem State.nextBoundary_dr2 : s.nextBoundary.dr2 = s.dr2 := rfl
@[simp] theorem State.nextBoundary_dr3 : s.nextBoundary.dr3 = s.dr3 := rfl
@[simp] theorem State.nextBoundary_dr6 : s.nextBoundary.dr6 = s.dr6 := rfl
@[simp] theorem State.nextBoundary_dr7 : s.nextBoundary.dr7 = s.dr7 := rfl
@[simp] theorem State.nextBoundary_tr6 : s.nextBoundary.tr6 = s.tr6 := rfl
@[simp] theorem State.nextBoundary_tr7 : s.nextBoundary.tr7 = s.tr7 := rfl
@[simp] theorem State.nextBoundary_cpl : s.nextBoundary.cpl = s.cpl := rfl
@[simp] theorem State.nextBoundary_tlb : s.nextBoundary.tlb = s.tlb := rfl
@[simp] theorem State.nextBoundary_trapped : s.nextBoundary.trapped = s.trapped := rfl
@[simp] theorem State.nextBoundary_mem : s.nextBoundary.mem = s.mem := rfl
@[simp] theorem State.nextBoundary_installed : s.nextBoundary.installed = s.installed := rfl
@[simp] theorem State.nextBoundary_stored : s.nextBoundary.stored = s.stored := rfl
@[simp] theorem State.nextBoundary_intrLine : s.nextBoundary.intrLine = s.intrLine.tail := rfl
@[simp] theorem State.nextBoundary_draws : s.nextBoundary.draws = s.draws + 1 := rfl

end

/-- Taking an exception changes the trap cause and, for a page miss, CR2. -/
theorem State.takeException_eq (s : State) (c : TrapCause) :
    s.takeException c = { s with trapped := some c, cr2 := (s.takeException c).cr2 } := by
  cases c <;> rfl

@[simp] theorem State.takeException_trapped (s : State) (c : TrapCause) :
    (s.takeException c).trapped = some c := by cases c <;> rfl

@[simp] theorem State.takeException_exc (s : State) (v : Byte) :
    s.takeException (.exc v) = { s with trapped := some (.exc v) } := rfl

@[simp] theorem Gprs.get_set_same (g : Gprs) (r : Reg) (v : Word) : (g.set r v).get r = v := by
  cases r <;> rfl

theorem Gprs.get_set_other (g : Gprs) (r q : Reg) (v : Word) (h : q ≠ r) : (g.set r v).get q = g.get q := by
  cases r <;> cases q <;> first | rfl | exact absurd rfl h

@[simp] theorem SegFile.get_set_same (f : SegFile) (n : SegName) (v : SegReg) : (f.set n v).get n = v := by
  cases n <;> rfl

theorem SegFile.get_set_other (f : SegFile) (n m : SegName) (v : SegReg) (h : m ≠ n) :
    (f.set n v).get m = f.get m := by
  cases n <;> cases m <;> first | rfl | exact absurd rfl h

@[simp] theorem State.r32_setR32_same (s : State) (r : Reg) (v : Word) : (s.setR32 r v).r32 r = v :=
  Gprs.get_set_same _ _ _

theorem State.r32_setR32_other (s : State) (r q : Reg) (v : Word) (h : q ≠ r) :
    (s.setR32 r v).r32 q = s.r32 q := Gprs.get_set_other _ _ _ _ h

@[simp] theorem State.r32_retire (s : State) (n : Nat) (r : Reg) : (s.retire n).r32 r = s.r32 r := rfl

@[simp] theorem State.seg_setSeg_same (s : State) (n : SegName) (v : SegReg) : (s.setSeg n v).seg n = v :=
  SegFile.get_set_same _ _ _

theorem State.seg_setSeg_other (s : State) (n m : SegName) (v : SegReg) (h : m ≠ n) :
    (s.setSeg n v).seg m = s.seg m := SegFile.get_set_other _ _ _ _ h

/-- The low part of an appended value is the appended value. -/
theorem extract_append_low {m n : Nat} (a : BitVec m) (b : BitVec n) : (a ++ b).extractLsb' 0 n = b := by
  ext i hi
  simp [BitVec.getLsbD_append, hi]

/-- A 16-bit write keeps bits 31:16 and gives back what was written (R11). -/
theorem State.r16_setR16_same (s : State) (r : Reg) (v : Half) : (s.setR16 r v).r16 r = v := by
  simp only [State.r16, State.setR16, State.r32_setR32_same, withLow16]
  exact extract_append_low _ _

end Sys2Proof.Machine
end

