-- ==== Sys2Proof/Laws/Ops.lean ====
section
/-! SUPPORT. For each shared operation, what it can do, said once: proofs cite these and do not unfold the operations. -/

namespace Sys2Proof.Machine

/-- Only the translation buffer and the count of free values drawn may differ: what a translation may change. -/
def State.SameButTlb (s t : State) : Prop := t = { s with tlb := t.tlb, draws := t.draws }

theorem State.SameButTlb.refl (s : State) : s.SameButTlb s := rfl

theorem State.SameButTlb.trans {s t u : State} (h1 : s.SameButTlb t) (h2 : t.SameButTlb u) : s.SameButTlb u := by
  unfold State.SameButTlb at *
  rw [h2, h1]

/-- An instruction has a next state exactly when its operations answer one or raise an exception. -/
theorem conclude_next_iff (s t : State) (r : Op State) :
    conclude s r = .next t ↔ r = .ok t ∨ ∃ c, r = .error (.raise c) ∧ t = s.takeException c := by
  cases r with
  | ok u => simp [conclude]
  | error h =>
    cases h with
    | raise c => simp [conclude, eq_comm]
    | fault f => simp [conclude]
    | refuse x => simp [conclude]

@[simp] theorem conclude_ok (s t : State) : conclude s (.ok t) = .next t := rfl
@[simp] theorem conclude_raise (s : State) (c : TrapCause) :
    conclude s (.error (.raise c)) = .next (s.takeException c) := rfl
@[simp] theorem conclude_refuse (s : State) (r : Refusal) : conclude s (.error (.refuse r)) = .refused r := rfl
@[simp] theorem conclude_fault (s : State) (f : Fault) : conclude s (.error (.fault f)) = .fault f := rfl

@[simp] theorem bind_ok {α β : Type} (a : α) (f : α → Op β) : ((Except.ok a : Op α) >>= f) = f a := rfl
@[simp] theorem bind_error {α β : Type} (h : Halt) (f : α → Op β) :
    ((Except.error h : Op α) >>= f) = Except.error h := rfl

/-- A sequence of two operations answers exactly when both do. -/
theorem bind_eq_ok {α β : Type} (x : Op α) (f : α → Op β) (b : β) :
    (x >>= f) = .ok b ↔ ∃ a, x = .ok a ∧ f a = .ok b := by
  cases x with
  | ok a => simp
  | error h => simp

theorem requireAccess_allowed (s : State) (g : RegGroup) (d : Direction) (h : s.allowed g d = true) :
    requireAccess s g d = .ok () := by simp [requireAccess, h]

theorem requireAccess_denied (s : State) (g : RegGroup) (d : Direction) (h : s.allowed g d = false) :
    requireAccess s g d = .error (.raise (deniedCause s.mode)) := by simp [requireAccess, h]

theorem requireAccess_eq_ok (s : State) (g : RegGroup) (d : Direction) (u : Unit) :
    requireAccess s g d = .ok u ↔ s.allowed g d = true := by
  unfold requireAccess
  split <;> simp_all

theorem checkSeg_eq_ok (s : State) (g : SegReg) (off n : Nat) (k : AccessKind) (u : Unit) :
    checkSeg s g off n k = .ok u ↔ off + n ≤ g.limit.toNat + 1 ∧ attrAllows g.attr k s.curCpl = true := by
  unfold checkSeg
  split <;> simp_all

theorem pageResult_same (s : State) (page : BitVec 20) (k : AccessKind) (c : BitVec 2) :
    s.SameButTlb (s.pageResult page k c).2 := by
  unfold State.pageResult
  split <;> rfl

/-- Where the translation buffer holds no other answer for a page, its translation is what the tables say now (R84). -/
theorem pageResult_fresh {s : State} {page : BitVec 20} {k : AccessKind} {c : BitVec 2}
    (h : s.staleWalks page k c = []) : s.pageResult page k c = (s.walk page k c, s) := by
  simp [State.pageResult, State.pickWalk, h]

theorem rememberPage_same (s : State) (page : BitVec 20) : s.SameButTlb (s.rememberPage page) := by
  unfold State.rememberPage
  split <;> rfl

/-- Remembering pages changes the translation buffer alone. -/
theorem rememberPages_eq (ps : List (BitVec 20)) (s : State) :
    s.rememberPages ps = { s with tlb := (s.rememberPages ps).tlb } := by
  induction ps generalizing s with
  | nil => rfl
  | cons p ps ih =>
    have h : s.rememberPage p = { s with tlb := (s.rememberPage p).tlb } := by
      unfold State.rememberPage
      split <;> rfl
    simp only [State.rememberPages]
    rw [ih (s.rememberPage p), h]

/-- A descriptor lookup changes the translation buffer alone. -/
theorem afterLookup_eq (s : State) : s.afterLookup = { s with tlb := s.afterLookup.tlb } := by
  unfold State.afterLookup
  split
  · exact rememberPages_eq _ _
  · rfl

/-- With paging off a descriptor lookup changes nothing (R94). -/
theorem afterLookup_off (s : State) (h : s.pagingOn = false) : s.afterLookup = s := by
  simp [State.afterLookup, h]

theorem afterLookup_same (s : State) : s.SameButTlb s.afterLookup := by
  have hd : s.afterLookup.draws = s.draws := by rw [afterLookup_eq s]
  unfold State.SameButTlb
  rw [hd]
  exact afterLookup_eq s

/-- With paging off an address is its own translation (R84). -/
theorem translate_off (s : State) (k : AccessKind) (lin : Word) (h : s.pagingOn = false) :
    translate s k lin = .ok (lin, s) := by simp [translate, h]

/-- A translation changes nothing a program can see. -/
theorem translate_ok_same {s s1 : State} {k : AccessKind} {lin p : Word} (h : translate s k lin = .ok (p, s1)) :
    s.SameButTlb s1 := by
  unfold translate at h
  split at h
  · split at h
    · rename_i heq
      simp only [Except.ok.injEq, Prod.mk.injEq] at h
      rw [← h.2]
      have h1 := pageResult_same s (lin.extractLsb' 12 20) k s.curCpl
      rw [heq] at h1
      exact h1.trans (rememberPage_same _ _)
    · cases h
  · simp only [Except.ok.injEq, Prod.mk.injEq] at h
    rw [← h.2]
    exact State.SameButTlb.refl s

/-- A translation keeps the offset in the page (R84). -/
theorem translate_ok_offset {s s1 : State} {k : AccessKind} {lin p : Word} (h : translate s k lin = .ok (p, s1)) :
    p.extractLsb' 0 12 = lin.extractLsb' 0 12 := by
  unfold translate at h
  split at h
  · split at h
    · simp only [Except.ok.injEq, Prod.mk.injEq] at h
      rw [← h.1]
      exact extract_append_low _ _
    · cases h
  · simp only [Except.ok.injEq, Prod.mk.injEq] at h
    rw [h.1]

/-- The only way a translation halts is a page miss at the address itself (R84, R208). -/
theorem translate_error {s : State} {k : AccessKind} {lin : Word} {x : Halt} (h : translate s k lin = .error x) :
    x = .raise (.pageMiss lin) ∧ s.pagingOn = true := by
  unfold translate at h
  split at h
  · split at h
    · cases h
    · cases h
      exact ⟨rfl, by assumption⟩
  · cases h

/-- What translating a range answers: as many physical addresses, all inside the address space, from a state that a
program cannot tell from the first. -/
theorem translateRange_ok {n : Nat} {s s1 : State} {k : AccessKind} {lin : Word} {ps : List Nat}
    (h : translateRange s k lin n = .ok (ps, s1)) :
    s.SameButTlb s1 ∧ ps.length = n ∧ ∀ a ∈ ps, a < addressSpace := by
  induction n generalizing s lin ps with
  | zero =>
    simp only [translateRange, Except.ok.injEq, Prod.mk.injEq] at h
    obtain ⟨rfl, rfl⟩ := h
    exact ⟨State.SameButTlb.refl s, rfl, by simp⟩
  | succ n ih =>
    simp only [translateRange, bind_eq_ok, Prod.exists] at h
    obtain ⟨p, s2, h1, qs, s3, h2, h3⟩ := h
    simp only [Except.ok.injEq, Prod.mk.injEq] at h3
    obtain ⟨rfl, rfl⟩ := h3
    obtain ⟨hs, hl, ha⟩ := ih h2
    refine ⟨(translate_ok_same h1).trans hs, by simp [hl], ?_⟩
    intro a hmem
    rcases List.mem_cons.mp hmem with rfl | hmem
    · exact p.isLt
    · exact ha a hmem

/-- With paging off a range is its linear addresses, modulo 2 ^ 32 (R81, R84). -/
theorem translateRange_off (n : Nat) (s : State) (k : AccessKind) (lin : Word) (h : s.pagingOn = false) :
    translateRange s k lin n = .ok ((List.range n).map (fun i => (lin + BitVec.ofNat 32 i).toNat), s) := by
  induction n generalizing lin with
  | zero => rfl
  | succ n ih =>
    have hf : ∀ i : Nat, lin + 1#32 + BitVec.ofNat 32 i = lin + BitVec.ofNat 32 (i + 1) := by
      intro i
      rw [BitVec.add_assoc, BitVec.add_comm (1#32), BitVec.ofNat_add]
    simp only [translateRange, translate_off s k lin h, bind_ok, ih (lin + 1), List.range_succ_eq_map,
      List.map_cons, List.map_map, Except.ok.injEq, Prod.mk.injEq, List.cons.injEq, and_true]
    refine ⟨by simp, ?_⟩
    apply List.map_congr_left
    intro i _
    simpa using congrArg BitVec.toNat (hf i)

/-- The offsets in their pages of a range's physical addresses are those of its linear addresses (R84). -/
theorem translateRange_offsets {n : Nat} {s s1 : State} {k : AccessKind} {lin : Word} {ps : List Nat}
    (h : translateRange s k lin n = .ok (ps, s1)) (i : Nat) (hi : i < ps.length) :
    ps[i] % 4096 = (lin.toNat + i) % 4096 := by
  induction n generalizing s lin ps i with
  | zero =>
    simp only [translateRange, Except.ok.injEq, Prod.mk.injEq] at h
    obtain ⟨rfl, rfl⟩ := h
    simp at hi
  | succ n ih =>
    simp only [translateRange, bind_eq_ok, Prod.exists] at h
    obtain ⟨p, s2, h1, qs, s3, h2, h3⟩ := h
    simp only [Except.ok.injEq, Prod.mk.injEq] at h3
    obtain ⟨rfl, rfl⟩ := h3
    have ho := congrArg BitVec.toNat (translate_ok_offset h1)
    simp only [BitVec.extractLsb'_toNat, Nat.shiftRight_zero] at ho
    norm_num at ho
    cases i with
    | zero => simpa using ho
    | succ i =>
      have hr := ih h2 i (by simpa using hi)
      simp only [List.getElem_cons_succ]
      have h1 : (1 : Word).toNat = 1 := rfl
      rw [hr, BitVec.toNat_add, h1]
      omega

/-- The physical addresses of a range of at most a page's length are all different (R84). -/
theorem translateRange_nodup {n : Nat} {s s1 : State} {k : AccessKind} {lin : Word} {ps : List Nat}
    (h : translateRange s k lin n = .ok (ps, s1)) (hn : n ≤ 4096) : ps.Nodup := by
  have hl := (translateRange_ok h).2.1
  rw [List.nodup_iff_injective_get]
  intro a b hab
  have ha := translateRange_offsets h a a.isLt
  have hb := translateRange_offsets h b b.isLt
  simp only [List.get_eq_getElem] at hab
  rw [hab, hb] at ha
  apply Fin.ext
  have h1 := a.isLt
  have h2 := b.isLt
  omega

/-- Stored bytes read back, where the addresses are all different. -/
theorem byteAt_setBytes_same (ps : List Nat) (m : Memory) (bs : List Byte) (hl : ps.length = bs.length)
    (hn : ps.Nodup) : ps.map (m.setBytes ps bs).byteAt = bs.map some := by
  induction ps generalizing m bs with
  | nil =>
    cases bs with
    | nil => rfl
    | cons b bs => simp at hl
  | cons a as ih =>
    cases bs with
    | nil => simp at hl
    | cons b bs =>
      simp only [List.nodup_cons] at hn
      simp only [Memory.setBytes, List.map_cons, ih (m.setByte a b) bs (by simpa using hl) hn.2,
        Memory.byteAt_setBytes_other as _ bs a hn.1, Memory.byteAt_setByte_same]

theorem readPhys_eq_ok (s : State) (a : Nat) (b : Byte) :
    readPhys s a = .ok b ↔ s.isInstalled a = true ∧ s.mem.byteAt a = some b := by
  unfold readPhys
  split
  · split <;> simp_all
  · simp_all

theorem readPhysList_ok_length {ps : List Nat} {s : State} {bs : List Byte} (h : readPhysList s ps = .ok bs) :
    bs.length = ps.length := by
  induction ps generalizing bs with
  | nil => cases h; rfl
  | cons a as ih =>
    simp only [readPhysList, bind_eq_ok] at h
    obtain ⟨b, -, cs, h2, h3⟩ := h
    cases h3
    simp [ih h2]

/-- Bytes that memory gives and that are in `PhysMem` are read. -/
theorem readPhysList_of_holds {ps : List Nat} {s : State} {bs : List Byte}
    (hi : ∀ a ∈ ps, s.isInstalled a = true) (hb : ps.map s.mem.byteAt = bs.map some) :
    readPhysList s ps = .ok bs := by
  induction ps generalizing bs with
  | nil =>
    cases bs with
    | nil => rfl
    | cons b bs => simp at hb
  | cons a as ih =>
    cases bs with
    | nil => simp at hb
    | cons b bs =>
      simp only [List.map_cons, List.cons.injEq] at hb
      have h1 : readPhys s a = .ok b := (readPhys_eq_ok s a b).mpr ⟨hi a (by simp), hb.1⟩
      simp only [readPhysList, h1, bind_ok, ih (fun x hx => hi x (by simp [hx])) hb.2]

theorem requireInstalled_eq_ok (s : State) (ps : List Nat) (u : Unit) :
    requireInstalled s ps = .ok u ↔ ∀ a ∈ ps, s.isInstalled a = true := by
  induction ps with
  | nil => simp [requireInstalled]
  | cons a as ih =>
    unfold requireInstalled
    split <;> simp_all

/-- Everything a memory read can do when it answers. -/
theorem memRead_ok {s s1 : State} {n : SegName} {off : Word} {count : Nat} {bs : List Byte}
    (h : memRead s n off count = .ok (bs, s1)) :
    s.SameButTlb s1 ∧ bs.length = count := by
  simp only [memRead, bind_eq_ok, Prod.exists] at h
  obtain ⟨-, -, ps, s2, h2, bs', h3, h4⟩ := h
  simp only [Except.ok.injEq, Prod.mk.injEq] at h4
  obtain ⟨rfl, rfl⟩ := h4
  obtain ⟨hs, hl, -⟩ := translateRange_ok h2
  exact ⟨hs, (readPhysList_ok_length ‹_›).trans hl⟩

/-- Everything a memory write can do when it answers: the bytes are stored at as many physical addresses, all inside
the address space and in `PhysMem`, and recorded; nothing else that a program can see changes. -/
theorem memWrite_ok {s t : State} {n : SegName} {off : Word} {bs : List Byte}
    (h : memWrite s n off bs = .ok t) :
    ∃ ps s1, translateRange s .write (linearAddr (s.seg n) off) bs.length = .ok (ps, s1) ∧
      t = s1.storePhys ps bs ∧ s.SameButTlb s1 ∧ ps.length = bs.length ∧ (∀ a ∈ ps, a < addressSpace) ∧
      ∀ a ∈ ps, s.isInstalled a = true := by
  simp only [memWrite, bind_eq_ok, Prod.exists] at h
  obtain ⟨_, -, ps, s1, h2, _, h3, h4⟩ := h
  simp only [Except.ok.injEq] at h4
  obtain ⟨hs, hl, ha⟩ := translateRange_ok h2
  rw [requireInstalled_eq_ok] at h3
  refine ⟨ps, s1, h2, h4.symm, hs, hl, ha, ?_⟩
  intro a hmem
  have := h3 a hmem
  rw [hs] at this
  exact this

/-- Everything a push can do when it answers. -/
theorem push32_ok {s t : State} {v : Word} (h : push32 s v = .ok t) :
    ∃ s1, memWrite s .ss (s.r32 .esp - 4) (toBytesLE v.toNat 4) = .ok s1 ∧
      t = s1.setR32 .esp (s.r32 .esp - 4) := by
  simp only [push32, bind_eq_ok] at h
  obtain ⟨s1, h1, h2⟩ := h
  cases h2
  exact ⟨s1, h1, rfl⟩

/-- Everything a pop can do when it answers: ESP goes up by 4, nothing else that a program can see changes. -/
theorem pop32_ok {s t : State} {v : Word} (h : pop32 s = .ok (v, t)) :
    ∃ bs s1, memRead s .ss (s.r32 .esp) 4 = .ok (bs, s1) ∧ v = BitVec.ofNat 32 (fromBytesLE bs) ∧
      s.SameButTlb s1 ∧ t = s1.setR32 .esp (s.r32 .esp + 4) := by
  simp only [pop32, bind_eq_ok, Prod.exists] at h
  obtain ⟨bs, s1, h1, h2⟩ := h
  simp only [Except.ok.injEq, Prod.mk.injEq] at h2
  exact ⟨bs, s1, h1, h2.1.symm, (memRead_ok h1).1, h2.2.symm⟩

theorem rememberPage_gpr (s : State) (page : BitVec 20) (g : Gprs) :
    ({ s with gpr := g } : State).rememberPage page = { s.rememberPage page with gpr := g } := by
  unfold State.rememberPage
  show (if s.tlb.contains (s.tlbEntryNow page) = true then _ else _) = _
  split <;> rfl

theorem pageResult_gpr (s : State) (page : BitVec 20) (k : AccessKind) (c : BitVec 2) (g : Gprs) :
    ({ s with gpr := g } : State).pageResult page k c
      = ((s.pageResult page k c).1, { (s.pageResult page k c).2 with gpr := g }) := by
  have h : ({ s with gpr := g } : State).staleWalks page k c = s.staleWalks page k c := rfl
  unfold State.pageResult State.pickWalk
  rw [h]
  cases s.staleWalks page k c <;> rfl

/-- A translation does not look at the general registers and keeps them. -/
theorem translate_gpr (s : State) (k : AccessKind) (lin : Word) (g : Gprs) :
    translate { s with gpr := g } k lin = (translate s k lin).map (fun r => (r.1, { r.2 with gpr := g })) := by
  unfold translate
  show (if s.pagingOn = true then _ else _) = _
  split
  · have hc : ({ s with gpr := g } : State).curCpl = s.curCpl := rfl
    rw [hc, pageResult_gpr]
    generalize s.pageResult (lin.extractLsb' 12 20) k s.curCpl = r
    obtain ⟨o, s1⟩ := r
    cases o with
    | none => rfl
    | some f =>
      show Except.ok (_, ({ s1 with gpr := g } : State).rememberPage _) = _
      rw [rememberPage_gpr]
      rfl
  · rfl

/-- A range's translation does not look at the general registers and keeps them. -/
theorem translateRange_gpr (n : Nat) (s : State) (k : AccessKind) (lin : Word) (g : Gprs) :
    translateRange { s with gpr := g } k lin n
      = (translateRange s k lin n).map (fun r => (r.1, { r.2 with gpr := g })) := by
  induction n generalizing s lin with
  | zero => rfl
  | succ n ih =>
    simp only [translateRange, translate_gpr]
    cases h1 : translate s k lin with
    | error e => rfl
    | ok r =>
      simp only [Except.map, bind_ok, ih]
      cases h2 : translateRange r.2 k (lin + 1) n with
      | error e => rfl
      | ok q => rfl

/-- A selector load outside PM is the 8086's (R160). -/
theorem loadSelector_8086 (s : State) (old : SegReg) (sel : Half) (use : SegUse) (h : s.mode ≠ .pm) :
    loadSelector s old sel use = .ok (load8086 old sel, s.curCpl, s) := by
  unfold loadSelector State.curCpl
  split <;> simp_all

/-- Everything a selector load can do when it answers: the selector is the one asked for, and nothing but the translation
buffer changes. -/
theorem loadSelector_ok {s t : State} {old v : SegReg} {sel : Half} {use : SegUse} {c : BitVec 2}
    (h : loadSelector s old sel use = .ok (v, c, t)) : s.SameButTlb t ∧ v.sel = sel := by
  unfold loadSelector at h
  split at h
  · simp only [Except.ok.injEq, Prod.mk.injEq] at h
    obtain ⟨rfl, -, rfl⟩ := h
    exact ⟨State.SameButTlb.refl s, rfl⟩
  · simp only [Except.ok.injEq, Prod.mk.injEq] at h
    obtain ⟨rfl, -, rfl⟩ := h
    exact ⟨State.SameButTlb.refl s, rfl⟩
  · split at h
    · simp only [Except.ok.injEq, Prod.mk.injEq] at h
      obtain ⟨rfl, -, rfl⟩ := h
      exact ⟨afterLookup_same s, rfl⟩
    · cases h

theorem rememberPages_gpr (ps : List (BitVec 20)) (s : State) (g : Gprs) :
    ({ s with gpr := g } : State).rememberPages ps = { s.rememberPages ps with gpr := g } := by
  induction ps generalizing s with
  | nil => rfl
  | cons p ps ih =>
    simp only [State.rememberPages]
    rw [rememberPage_gpr, ih]

/-- A descriptor lookup does not look at the general registers. -/
theorem lookup_gpr (s : State) (sel : Half) (use : SegUse) (g : Gprs) :
    ({ s with gpr := g } : State).lookup sel use = s.lookup sel use := rfl

theorem afterLookup_gpr (s : State) (g : Gprs) :
    ({ s with gpr := g } : State).afterLookup = { s.afterLookup with gpr := g } := by
  unfold State.afterLookup
  show (if s.pagingOn = true then _ else _) = _
  split
  · exact rememberPages_gpr _ _ _
  · rfl

/-- A fetched byte changes nothing a program can see. -/
theorem fetchByte_ok {s s1 : State} {k : Nat} {b : Byte} (h : fetchByte s k = .ok (b, s1)) : s.SameButTlb s1 := by
  simp only [fetchByte, bind_eq_ok, Prod.exists] at h
  obtain ⟨-, -, p, s2, h2, h3⟩ := h
  split at h3
  · cases h3
  · simp only [bind_eq_ok] at h3
    obtain ⟨c, -, h5⟩ := h3
    simp only [Except.ok.injEq, Prod.mk.injEq] at h5
    rw [← h5.2]
    exact translate_ok_same h2

theorem fetchFrom_ok {fuel : Nat} {s s1 : State} {got : List Byte} {i : Instr}
    (h : fetchFrom s got fuel = .ok (i, s1)) : s.SameButTlb s1 := by
  induction fuel generalizing s got with
  | zero => cases h
  | succ fuel ih =>
    simp only [fetchFrom, bind_eq_ok, Prod.exists] at h
    obtain ⟨b, s2, h1, h2⟩ := h
    split at h2
    · simp only [Except.ok.injEq, Prod.mk.injEq] at h2
      rw [← h2.2]
      exact fetchByte_ok h1
    · exact (fetchByte_ok h1).trans (ih h2)
    · cases h2

/-- A fetch changes nothing a program can see. -/
theorem fetch_ok {s s1 : State} {i : Instr} (h : fetch s = .ok (i, s1)) : s.SameButTlb s1 := fetchFrom_ok h

/-- Reporting a debug exception changes DR6, in which no bit is cleared (R67), and the count of free values. -/
theorem reportDebug_eq (s : State) (bits : Word) :
    s.reportDebug bits = { s with dr6 := (s.reportDebug bits).dr6, draws := (s.reportDebug bits).draws } := by
  unfold State.reportDebug
  split <;> rfl

end Sys2Proof.Machine
end

