-- ==== Sys2Proof/Laws/PerInstr.lean ====
section
/-! SUPPORT. A family of statements about every instruction as syntax: its encoding has at least one byte and at most
seven (R109). -/

namespace Sys2Proof.Laws

/-- The encoding of an instruction has 1 to 7 bytes (R109). -/
def EncodedLength.Statement (i : Instr) : Prop := 1 ≤ (encode i).length ∧ (encode i).length ≤ longestInstr

/-- A length between 1 and 7 is enough. -/
theorem encodedLength_of_eq {i : Instr} (n : Nat) (h : (encode i).length = n) (h1 : 1 ≤ n) (h7 : n ≤ longestInstr) :
    EncodedLength.Statement i := by
  subst h
  exact ⟨h1, h7⟩

theorem EncodedLength.pushf : EncodedLength.Statement .pushf :=
  encodedLength_of_eq 1 rfl (by decide) (by decide)

theorem EncodedLength.popf : EncodedLength.Statement .popf :=
  encodedLength_of_eq 1 rfl (by decide) (by decide)

theorem EncodedLength.iret : EncodedLength.Statement .iret :=
  encodedLength_of_eq 1 rfl (by decide) (by decide)

theorem EncodedLength.jmpFar (offset : Word) (selector : Half) : EncodedLength.Statement (.jmpFar offset selector) :=
  encodedLength_of_eq 7 rfl (by decide) (by decide)

theorem EncodedLength.callFar (offset : Word) (selector : Half) : EncodedLength.Statement (.callFar offset selector) :=
  encodedLength_of_eq 7 rfl (by decide) (by decide)

theorem EncodedLength.intImm (vector : Byte) : EncodedLength.Statement (.intImm vector) :=
  encodedLength_of_eq 2 rfl (by decide) (by decide)

theorem EncodedLength.inAlImm (port : Byte) : EncodedLength.Statement (.inAlImm port) :=
  encodedLength_of_eq 2 rfl (by decide) (by decide)

theorem EncodedLength.inEaxImm (port : Byte) : EncodedLength.Statement (.inEaxImm port) :=
  encodedLength_of_eq 2 rfl (by decide) (by decide)

theorem EncodedLength.outImmAl (port : Byte) : EncodedLength.Statement (.outImmAl port) :=
  encodedLength_of_eq 2 rfl (by decide) (by decide)

theorem EncodedLength.outImmEax (port : Byte) : EncodedLength.Statement (.outImmEax port) :=
  encodedLength_of_eq 2 rfl (by decide) (by decide)

theorem EncodedLength.inAlDx : EncodedLength.Statement .inAlDx :=
  encodedLength_of_eq 1 rfl (by decide) (by decide)

theorem EncodedLength.inEaxDx : EncodedLength.Statement .inEaxDx :=
  encodedLength_of_eq 1 rfl (by decide) (by decide)

theorem EncodedLength.outDxAl : EncodedLength.Statement .outDxAl :=
  encodedLength_of_eq 1 rfl (by decide) (by decide)

theorem EncodedLength.outDxEax : EncodedLength.Statement .outDxEax :=
  encodedLength_of_eq 1 rfl (by decide) (by decide)

theorem EncodedLength.movR32Cr (rd : Reg) (cr : BitVec 3) : EncodedLength.Statement (.movR32Cr rd cr) :=
  encodedLength_of_eq 3 rfl (by decide) (by decide)

theorem EncodedLength.movCrR32 (cr : BitVec 3) (rs : Reg) : EncodedLength.Statement (.movCrR32 cr rs) :=
  encodedLength_of_eq 3 rfl (by decide) (by decide)

theorem EncodedLength.lmsw (rs : Reg) : EncodedLength.Statement (.lmsw rs) :=
  encodedLength_of_eq 3 rfl (by decide) (by decide)

theorem EncodedLength.wait : EncodedLength.Statement .wait :=
  encodedLength_of_eq 1 rfl (by decide) (by decide)

theorem EncodedLength.esc (x : BitVec 3) : EncodedLength.Statement (.esc x) :=
  encodedLength_of_eq 1 rfl (by decide) (by decide)

theorem EncodedLength.movSegR16 (sreg : BitVec 3) (rs : Reg) : EncodedLength.Statement (.movSegR16 sreg rs) :=
  encodedLength_of_eq 2 rfl (by decide) (by decide)

theorem EncodedLength.movR16Seg (rd : Reg) (sreg : BitVec 3) : EncodedLength.Statement (.movR16Seg rd sreg) :=
  encodedLength_of_eq 2 rfl (by decide) (by decide)

theorem EncodedLength.lgdt (disp : Word) : EncodedLength.Statement (.lgdt disp) :=
  encodedLength_of_eq 7 rfl (by decide) (by decide)

theorem EncodedLength.sgdt (disp : Word) : EncodedLength.Statement (.sgdt disp) :=
  encodedLength_of_eq 7 rfl (by decide) (by decide)

theorem EncodedLength.lidt (disp : Word) : EncodedLength.Statement (.lidt disp) :=
  encodedLength_of_eq 7 rfl (by decide) (by decide)

theorem EncodedLength.sidt (disp : Word) : EncodedLength.Statement (.sidt disp) :=
  encodedLength_of_eq 7 rfl (by decide) (by decide)

theorem EncodedLength.lldt (rs : Reg) : EncodedLength.Statement (.lldt rs) :=
  encodedLength_of_eq 3 rfl (by decide) (by decide)

theorem EncodedLength.sldt (rd : Reg) : EncodedLength.Statement (.sldt rd) :=
  encodedLength_of_eq 3 rfl (by decide) (by decide)

theorem EncodedLength.ltr (rs : Reg) : EncodedLength.Statement (.ltr rs) :=
  encodedLength_of_eq 3 rfl (by decide) (by decide)

theorem EncodedLength.str (rd : Reg) : EncodedLength.Statement (.str rd) :=
  encodedLength_of_eq 3 rfl (by decide) (by decide)

theorem EncodedLength.movR32Dr (rd : Reg) (dr : BitVec 3) : EncodedLength.Statement (.movR32Dr rd dr) :=
  encodedLength_of_eq 3 rfl (by decide) (by decide)

theorem EncodedLength.movDrR32 (dr : BitVec 3) (rs : Reg) : EncodedLength.Statement (.movDrR32 dr rs) :=
  encodedLength_of_eq 3 rfl (by decide) (by decide)

theorem EncodedLength.movR32Tr (rd : Reg) (tr : BitVec 3) : EncodedLength.Statement (.movR32Tr rd tr) :=
  encodedLength_of_eq 3 rfl (by decide) (by decide)

theorem EncodedLength.movTrR32 (tr : BitVec 3) (rs : Reg) : EncodedLength.Statement (.movTrR32 tr rs) :=
  encodedLength_of_eq 3 rfl (by decide) (by decide)

end Sys2Proof.Laws
end

