-- ==== Sys2Proof/Tests/Slice0.lean ====
section
/-! SUPPORT. Tests: the words of spec/30_encoding.md and the vectors of spec/95_test_vectors.md (named by its section
letters), a smoke test of well-formedness, and for each statement with hypotheses a state that meets them. -/

namespace Sys2Proof.Tests

open Sys2Proof Sys2Proof.Machine

/-- Whether an outcome is a next state with a property. -/
def nextAnd (o : Outcome) (p : State → Bool) : Bool :=
  match o with
  | .next t => p t
  | .fault _ => false
  | .refused _ => false

/-- Whether an outcome is a given refusal. -/
def refusedAs (o : Outcome) (r : Refusal) : Bool :=
  match o with
  | .next _ => false
  | .fault _ => false
  | .refused x => x == r

/-- Whether an outcome is the state `s` with exception `v` raised and nothing else changed. -/
def raisesOnly (o : Outcome) (s : State) (v : Byte) : Bool := nextAnd o (fun t => decide (t = s.raised v))

/-- A segment register with base 0. -/
def seg0 (limit : Word) : SegReg := ⟨0, 0, limit, Attr.allowAll⟩

/-- All six segment registers with base 0. -/
def segs0 (limit : Word) : SegFile := ⟨seg0 limit, seg0 limit, seg0 limit, seg0 limit, seg0 limit, seg0 limit⟩

/-- Real address mode with base 0 and limit FFFF everywhere. -/
def rm : State := { State.reset with segs := segs0 0xFFFF, eip := 0x200 }

/-- Protected mode with flat segments, at a privilege level and with given flags. -/
def pm (cpl : BitVec 2) (eflags : Word) : State :=
  { State.reset with segs := segs0 0xFFFFFFFF, eip := 0x200, cr0 := 0x11, cpl := cpl, eflags := eflags }

/-- Virtual 8086 mode with given flags. -/
def v86 (eflags : Word) : State := { rm with cr0 := 0x11, cpl := 3, eflags := eflags }

/-- Bytes given to memory at an address. -/
def put (s : State) (a : Nat) (bs : List Byte) : State :=
  { s with mem := s.mem.setBytes (List.range' a bs.length) bs }

/-- The bytes of memory at an address. -/
def bytesAt (s : State) (a n : Nat) : List (Option Byte) := (List.range' a n).map s.mem.byteAt

/-! ## Well-formedness: each check refuses an ill-formed term -/

theorem test_wellFormed_cr : (Instr.movR32Cr .eax 1).wellFormed = false ∧ (Instr.movCrR32 4 .eax).wellFormed = false := by
  decide
theorem test_wellFormed_dr : (Instr.movR32Dr .eax 4).wellFormed = false ∧ (Instr.movDrR32 5 .eax).wellFormed = false := by
  decide
theorem test_wellFormed_tr : (Instr.movR32Tr .eax 3).wellFormed = false ∧ (Instr.movTrR32 5 .eax).wellFormed = false := by
  decide
theorem test_wellFormed_seg : (Instr.movR16Seg .eax 6).wellFormed = false ∧ (Instr.movSegR16 7 .eax).wellFormed = false := by
  decide
theorem test_wellFormed_loadCs : (Instr.movSegR16 1 .eax).wellFormed = false ∧ (Instr.movR16Seg .eax 1).wellFormed = true := by
  decide

/-! ## Decoding: section L's bytes, or bytes put together from the `encoding` column of spec/opcode_table.json -/

theorem test_decode_flag_instructions :
    decodeBytes [0x9C] = .done .pushf ∧ decodeBytes [0x9D] = .done .popf ∧ decodeBytes [0xCF] = .done .iret ∧
    decodeBytes [0xEA, 0x00, 0x10, 0x00, 0x00, 0x08, 0x00] = .done (.jmpFar 0x00001000 0x0008) ∧
    decodeBytes [0x9A, 0x78, 0x56, 0x34, 0x12, 0x10, 0x00] = .done (.callFar 0x12345678 0x0010) ∧
    decodeBytes [0xCD, 0x21] = .done (.intImm 0x21) := by decide

theorem test_decode_io :
    decodeBytes [0xE4, 0x60] = .done (.inAlImm 0x60) ∧ decodeBytes [0xE5, 0x60] = .done (.inEaxImm 0x60) ∧
    decodeBytes [0xE6, 0x80] = .done (.outImmAl 0x80) ∧ decodeBytes [0xE7, 0x80] = .done (.outImmEax 0x80) ∧
    decodeBytes [0xEC] = .done .inAlDx ∧ decodeBytes [0xED] = .done .inEaxDx ∧
    decodeBytes [0xEE] = .done .outDxAl ∧ decodeBytes [0xEF] = .done .outDxEax := by decide

theorem test_decode_control :
    decodeBytes [0x0F, 0x20, 0xC3] = .done (.movR32Cr .ebx 0) ∧ decodeBytes [0x0F, 0x20, 0xDA] = .done (.movR32Cr .edx 3) ∧
    decodeBytes [0x0F, 0x22, 0xD8] = .done (.movCrR32 3 .eax) ∧ decodeBytes [0x0F, 0x22, 0xC1] = .done (.movCrR32 0 .ecx) ∧
    decodeBytes [0x0F, 0x01, 0xF1] = .done (.lmsw .ecx) ∧ decodeBytes [0x9B] = .done .wait ∧
    decodeBytes [0xD8] = .done (.esc 0) ∧ decodeBytes [0xDF] = .done (.esc 7) := by decide

theorem test_decode_segment :
    decodeBytes [0x8E, 0xD8] = .done (.movSegR16 3 .eax) ∧ decodeBytes [0x8E, 0xD2] = .done (.movSegR16 2 .edx) ∧
    decodeBytes [0x8C, 0xCB] = .done (.movR16Seg .ebx 1) := by decide

theorem test_decode_system_address :
    decodeBytes [0x0F, 0x01, 0x15, 0x00, 0x20, 0x00, 0x00] = .done (.lgdt 0x00002000) ∧
    decodeBytes [0x0F, 0x01, 0x05, 0x00, 0x30, 0x00, 0x00] = .done (.sgdt 0x00003000) ∧
    decodeBytes [0x0F, 0x01, 0x1D, 0x08, 0x20, 0x00, 0x00] = .done (.lidt 0x00002008) ∧
    decodeBytes [0x0F, 0x01, 0x0D, 0x08, 0x30, 0x00, 0x00] = .done (.sidt 0x00003008) ∧
    decodeBytes [0x0F, 0x00, 0xD0] = .done (.lldt .eax) ∧ decodeBytes [0x0F, 0x00, 0xC0] = .done (.sldt .eax) ∧
    decodeBytes [0x0F, 0x00, 0xD8] = .done (.ltr .eax) ∧ decodeBytes [0x0F, 0x00, 0xCB] = .done (.str .ebx) := by decide

theorem test_decode_debug_test :
    decodeBytes [0x0F, 0x21, 0xF9] = .done (.movR32Dr .ecx 7) ∧ decodeBytes [0x0F, 0x23, 0xFB] = .done (.movDrR32 7 .ebx) ∧
    decodeBytes [0x0F, 0x24, 0xF0] = .done (.movR32Tr .eax 6) ∧ decodeBytes [0x0F, 0x26, 0xF8] = .done (.movTrR32 7 .eax) := by
  decide

theorem test_decode_refuses :
    decodeBytes [0x66, 0x9C] = .reject .prefixByte ∧ decodeBytes [0x0F, 0x01, 0x10] = .reject .modRMShape ∧
    decodeBytes [0x0F, 0x20, 0x03] = .reject .modRMShape ∧ decodeBytes [0x90] = .reject .notInSpec ∧
    decodeBytes [] = .more ∧ decodeBytes [0x0F, 0x01, 0x15, 0x00, 0x20, 0x00] = .more := by decide

theorem test_decodeTableWord :
    decodeTableWord 8 0x9C = some .pushf ∧ decodeTableWord 16 0xCD21 = some (.intImm 0x21) ∧
    decodeTableWord 24 0x0F22C1 = some (.movCrR32 0 .ecx) ∧ decodeTableWord 24 0x0F0115 = some (.lgdt 0) ∧
    decodeTableWord 8 0xEA = some (.jmpFar 0 0) ∧ decodeTableWord 8 0x66 = none := by decide

/-- The placed instruction is the one the next step runs, from reset on. -/
theorem test_withFetchWord_mov :
    nextAnd (step (State.reset.withFetchWord 24 0x0F22C1)) (fun t => t.eip == 0xFFF3 && t.cr0 == 0) = true := by decide
theorem test_withFetchWord_jmp :
    refusedAs (step (State.reset.withFetchWord 8 0xEA)) .controlTransferNotInSource = true := by decide

/-! ## Flags: sections A, B, F -/

theorem test_add_byte_carry :
    addResult (0xFF#8) 0x01 false = 0 ∧ addFlags (0xFF#8) 0x01 false = ⟨true, true, true, true, false, false⟩ := by decide
theorem test_add_overflow :
    addFlags (0x7F#8) 0x01 false = ⟨false, false, true, false, true, true⟩ ∧
    addFlags (0x80#8) 0x80 false = ⟨true, true, false, true, false, true⟩ := by decide
theorem test_add_widths :
    addFlags (0x00FF#16) 0x0001 false = ⟨false, true, true, false, false, false⟩ ∧
    addFlags (0x7FFFFFFF#32) 0x00000001 false = ⟨false, true, true, false, true, true⟩ := by decide
/-- Hand calculation: 0 - 1 at 8 bits borrows everywhere; 80 - 1 overflows. -/
theorem test_sub :
    subFlags (0x00#8) 0x01 false = ⟨true, true, true, false, true, false⟩ ∧
    subFlags (0x80#8) 0x01 false = ⟨false, false, true, false, false, true⟩ := by decide
theorem test_flags_fields :
    (v86 0x00023202).vm = true ∧ (v86 0x00023202).rf = false ∧ (v86 0x00023202).iopl = 3 ∧
    (v86 0x00023202).ifl = true ∧ (v86 0x00023202).nt = false := by decide
/-- The places of R20's table, each flag alone. -/
theorem test_flag_bits :
    withStatusFlags 2 ⟨true, false, false, true, false, false⟩ = 0x43 ∧
    withStatusFlags 2 ⟨false, true, true, false, true, true⟩ = 0x896 := by decide
theorem test_string_step :
    stringIndex false 1 0xFFFFFFFF = 0 ∧ stringIndex true 4 0 = 0xFFFFFFFC ∧ stringIndex true 2 0x1000 = 0x0FFE ∧
    stringIndex false 4 0x1000 = 0x1004 := by decide

/-! ## PUSHF, POPF, IRET: sections C, D, E -/

theorem test_pushf_v86 :
    nextAnd (exec .pushf ((v86 0x00023202).setR32 .esp 0x1000)) (fun t =>
      bytesAt t 0x0FFC 4 == [some 0x02, some 0x32, some 0x00, some 0x00] && t.r32 .esp == 0x0FFC && t.eip == 0x201
        && t.eflags == 0x00023202) = true := by decide
theorem test_pushf_rm_limit :
    raisesOnly (exec .pushf (rm.setR32 .esp 2)) (rm.setR32 .esp 2) 13 = true := by decide
theorem test_popf_cpl3 :
    nextAnd (exec .popf (put ((pm 3 2).setR32 .esp 0x1000) 0x1000 [0xD7, 0x7F, 0x03, 0x00])) (fun t =>
      t.eflags == 0x00014DD7 && t.r32 .esp == 0x1004 && t.eip == 0x201) = true := by decide
theorem test_popf_cpl1 :
    nextAnd (exec .popf (put ((pm 1 0x1202).setR32 .esp 0x1000) 0x1000 [0x00, 0x30, 0x00, 0x00])) (fun t =>
      t.eflags == 0x00001002) = true := by decide

/-- The stack of section E's first row. -/
def iretStack (cs : Half) (image : Word) : State :=
  put (rm.setR32 .esp 0x0FF4) 0x0FF4 ([0x00, 0x01, 0x00, 0x00] ++ bytes16 cs ++ [0x00, 0x00] ++ bytes32 image)

theorem test_iret_rm :
    nextAnd (exec .iret (iretStack 0x1234 0x00010202)) (fun t =>
      t.eip == 0x100 && (t.seg .cs).sel == 0x1234 && (t.seg .cs).base == 0x00012340 && (t.seg .cs).limit == 0xFFFF
        && t.eflags == 0x00010202 && t.r32 .esp == 0x1000) = true := by decide
theorem test_iret_rm_keeps_vm :
    nextAnd (exec .iret (iretStack 0 0x00020002)) (fun t => t.eflags == 2) = true := by decide
theorem test_transfers_refused :
    refusedAs (exec (.jmpFar 0x1000 8) rm) .controlTransferNotInSource = true ∧
    refusedAs (exec (.callFar 0x1000 8) rm) .controlTransferNotInSource = true ∧
    refusedAs (exec (.intImm 3) rm) .controlTransferNotInSource = true := by decide

/-! ## I/O: section F -/

theorem test_in_runs :
    nextAnd (exec (.inAlImm 0x60) rm) (fun t => t.eip == 0x202 && t.draws == 1) = true ∧
    nextAnd (exec .inEaxDx (pm 2 0x2002)) (fun t => t.eip == 0x201) = true := by decide
theorem test_out_keeps :
    nextAnd (exec (.outImmEax 0x80) rm) (fun t => decide (t = { rm with eip := 0x202 })) = true ∧
    nextAnd (exec .outDxAl (v86 0x23002)) (fun t => t.eip == 0x201) = true := by decide
theorem test_io_traps :
    raisesOnly (exec (.inEaxImm 0x60) (pm 3 0x2002)) (pm 3 0x2002) 13 = true ∧
    raisesOnly (exec .outDxEax (v86 0x22002)) (v86 0x22002) 13 = true ∧
    raisesOnly (exec .inAlDx (pm 1 2)) (pm 1 2) 13 = true ∧
    raisesOnly (exec (.outImmAl 0) (pm 1 2)) (pm 1 2) 13 = true := by decide

/-! ## Control registers: sections G, H -/

theorem test_mov_from_cr0 :
    nextAnd (exec (.movR32Cr .ebx 0) { pm 0 2 with cr0 := 0x1B }) (fun t => t.r32 .ebx == 0x1B && t.eip == 0x203) = true := by
  decide
theorem test_mov_from_cr_denied : raisesOnly (exec (.movR32Cr .ebx 2) (pm 3 2)) (pm 3 2) 13 = true := by decide
theorem test_mov_to_cr0 :
    nextAnd (exec (.movCrR32 0 .eax) ((pm 0 2).setR32 .eax 0x7FFFFFE0)) (fun t => t.cr0 == 0) = true ∧
    refusedAs (exec (.movCrR32 0 .eax) (rm.setR32 .eax 0x80000000)) .pagingWithoutProtection = true := by decide
theorem test_mov_to_cr3 :
    nextAnd (exec (.movCrR32 3 .eax) (rm.setR32 .eax 0x00123FFF)) (fun t => t.cr3 == 0x00123) = true ∧
    nextAnd (exec (.movCrR32 2 .eax) (rm.setR32 .eax 0xDEADBEEF)) (fun t => t.cr2 == 0xDEADBEEF) = true := by decide
theorem test_lmsw :
    nextAnd (exec (.lmsw .ecx) { rm with cr0 := 0x11 }) (fun t => t.cr0 == 0x11) = true ∧
    nextAnd (exec (.lmsw .eax) { rm.setR32 .eax 0xFFFF with cr0 := 0x80000001 }) (fun t => t.cr0 == 0x8000000F) = true := by
  decide
theorem test_wait :
    nextAnd (exec .wait { rm with cr0 := 0x0D }) (fun t => t.eip == 0x201 && t.trapped == none) = true ∧
    raisesOnly (exec .wait { rm with cr0 := 0x0B }) { rm with cr0 := 0x0B } 7 = true := by decide
theorem test_esc :
    raisesOnly (exec (.esc 1) { rm with cr0 := 0x05 }) { rm with cr0 := 0x05 } 7 = true ∧
    refusedAs (exec (.esc 1) { rm with cr0 := 0x09 }) .coprocessorNotModelled = true := by decide

/-! ## Segment and system address registers: section I -/

/-- GDTR as LGDT's row leaves it. -/
def gdtrRow : TableReg := ⟨0x00001000, 0x03FF⟩

theorem test_lgdt :
    nextAnd (exec (.lgdt 0x2000) (put rm 0x2000 [0xFF, 0x03, 0x00, 0x10, 0x00, 0x00])) (fun t =>
      t.gdtr == gdtrRow && t.eip == 0x207) = true ∧
    raisesOnly (exec (.lgdt 0xFFFC) rm) rm 13 = true := by decide
theorem test_sgdt :
    nextAnd (exec (.sgdt 0x3000) { rm with gdtr := gdtrRow }) (fun t =>
      bytesAt t 0x3000 6 == [some 0xFF, some 0x03, some 0x00, some 0x10, some 0x00, some 0x00]) = true := by decide
theorem test_lidt :
    nextAnd (exec (.lidt 0x2008) (put rm 0x2008 [0xFF, 0x07, 0x00, 0x00, 0x01, 0x00])) (fun t =>
      t.idtr.limit == 0x07FF && t.idtr.base == 0x00010000) = true := by decide
theorem test_sidt :
    nextAnd (exec (.sidt 0x3008) rm) (fun t =>
      bytesAt t 0x3008 6 == [some 0xFF, some 0x03, some 0x00, some 0x00, some 0x00, some 0x00]) = true := by decide
theorem test_mov_to_sreg :
    nextAnd (exec (.movSegR16 3 .eax) (rm.setR32 .eax 0x1234)) (fun t =>
      (t.seg .ds).sel == 0x1234 && (t.seg .ds).base == 0x00012340 && (t.seg .ds).limit == 0xFFFF && t.eip == 0x202) = true ∧
    nextAnd (exec (.movSegR16 2 .edx) ((v86 0x20002).setR32 .edx 0xFFFF)) (fun t => (t.seg .ss).base == 0x000FFFF0) = true := by
  decide
theorem test_mov_from_sreg :
    nextAnd (exec (.movR16Seg .ebx 1) ((rm.setSeg .cs ⟨8, 0, 0xFFFF, Attr.allowAll⟩).setR32 .ebx 0xAAAA5555)) (fun t =>
      t.r32 .ebx == 0xAAAA0008) = true ∧
    refusedAs (exec (.movSegR16 1 .eax) rm) .reservedRegister = true := by decide
theorem test_sldt_str :
    nextAnd (exec (.sldt .eax) { (pm 0 2).setR32 .eax 0xFFFFFFFF with ldtr := ⟨0x28, 0, 0, 0⟩ }) (fun t =>
      t.r32 .eax == 0xFFFF0028) = true ∧
    nextAnd (exec (.str .ebx) { pm 3 2 with tr := ⟨0x30, 0, 0, 0⟩ }) (fun t => t.r32 .ebx == 0x30) = true := by decide
theorem test_lldt_ltr_denied :
    raisesOnly (exec (.ltr .eax) (pm 2 2)) (pm 2 2) 13 = true ∧ raisesOnly (exec (.lldt .eax) rm) rm 6 = true := by decide

/-! ## Debug and test registers: section J -/

theorem test_mov_to_dr :
    nextAnd (exec (.movDrR32 7 .ebx) (rm.setR32 .ebx 0xFFFFFFFF)) (fun t => t.dr7 == 0xFFFF03FF) = true ∧
    nextAnd (exec (.movDrR32 6 .eax) (rm.setR32 .eax 0xFFFFFFFF)) (fun t => t.dr6 == 0x0000E00F) = true := by decide
theorem test_mov_from_dr :
    nextAnd (exec (.movR32Dr .ecx 7) { rm with dr7 := 0x000D0002 }) (fun t => t.r32 .ecx == 0x000D0002) = true ∧
    refusedAs (exec (.movR32Dr .eax 4) rm) .reservedRegister = true := by decide
theorem test_mov_to_tr :
    nextAnd (exec (.movTrR32 7 .eax) (rm.setR32 .eax 0xDEADBEEF)) (fun t => t.tr7 == 0xDEADBEEF) = true := by decide
theorem test_mov_from_tr :
    nextAnd (exec (.movR32Tr .eax 6) { rm with tr6 := 0x1000 }) (fun t => t.r32 .eax == 0x1000) = true ∧
    refusedAs (exec (.movR32Tr .eax 3) rm) .reservedRegister = true := by decide

/-! ## Debug exceptions and the task switch: section K -/

theorem test_write_breakpoint_matches :
    ({ rm with dr0 := 0x1000, dr7 := 0x000D0002 } : State).dataCond 0 ⟨.write, 0x0FFD, 4⟩ = true ∧
    ({ rm with dr0 := 0x1000, dr7 := 0x000D0002 } : State).dataCond 0 ⟨.read, 0x1000, 4⟩ = false ∧
    ({ rm with dr0 := 0x1000, dr7 := 0x000D0002 } : State).dataCond 0 ⟨.write, 0x1004, 1⟩ = false ∧
    ({ rm with dr1 := 0x2000, dr7 := 0x00700004 } : State).dataCond 1 ⟨.read, 0x2001, 1⟩ = true := by decide

/-- Program P4: PUSHF writes through an enabled breakpoint. -/
def p4 : State :=
  put { (pm 0 2).setR32 .esp 0x00012348 with dr0 := 0x00012344, dr7 := 0x000D0002, eip := 0x200C } 0x200C [0x9C]

theorem test_data_breakpoint :
    nextAnd (step p4) (fun t => t.dr6 == 1 && t.trapped == some .debugException && t.eip == 0x200D
      && bytesAt t 0x12344 4 == [some 0x02, some 0x00, some 0x00, some 0x00]) = true := by decide

/-- An instruction breakpoint on WAIT at 3000. -/
def waitAt3000 (eflags : Word) : State :=
  put { pm 0 eflags with dr2 := 0x3000, dr7 := 0x00000020, eip := 0x3000 } 0x3000 [0x9B]

theorem test_instruction_breakpoint :
    nextAnd (step (waitAt3000 2)) (fun t => t.dr6 == 4 && t.trapped == some .debugException && t.eip == 0x3000) = true := by
  decide
theorem test_rf_suppresses_breakpoint :
    nextAnd (step (waitAt3000 0x10002)) (fun t => t.dr6 == 0 && t.trapped == none && t.eip == 0x3001 && t.eflags == 2)
      = true := by decide
theorem test_single_step :
    nextAnd (step (put (pm 0 0x102) 0x200 [0x9B])) (fun t =>
      t.dr6 == 0x4000 && t.trapped == some .debugException && t.eip == 0x201) = true := by decide
theorem test_undefined_breakpoint :
    refusedAs (step (put { pm 0 2 with dr7 := 0x00020002 } 0x200 [0x9B])) .undefinedBreakpoint = true := by decide
theorem test_task_switch_registers :
    dr7AfterSwitch 0xFF = 0xAA ∧ dr7AfterSwitch 0xFFFF03FF = 0xFFFF03AA ∧
    (({ rm with cr0 := 0x11 } : State).loadTask rm.savedTask false none).cr0 = 0x19 := by decide

theorem test_task_switch_trap :
    (rm.switchTask { rm.savedTask with debugTrap := true, eflags := 0x00023FD7 } true (some 1)).dr6 = 0x8000 ∧
    (rm.switchTask { rm.savedTask with eflags := 0x00003FD5 } true none).eflags = 0x00007FD7 ∧
    (rm.switchTask rm.savedTask false none).trapped = none := by decide
/-- With paging off a lookup sees the tables' bytes and no others: GDT at 1000 to 1007. -/
theorem test_descriptor_view :
    (put { rm with gdtr := ⟨0x1000, 7⟩, ldtr := ⟨0, 0x3000, 0, 0⟩ } 0x1007 [0xAA, 0xBB]).descMemory 0x1007 = some 0xAA ∧
    (put { rm with gdtr := ⟨0x1000, 7⟩, ldtr := ⟨0, 0x3000, 0, 0⟩ } 0x1007 [0xAA, 0xBB]).descMemory 0x1008 = none := by decide
/-- The pages of a table of 17 bytes that starts 8 bytes before the end of a page, and of one byte. -/
theorem test_table_pages : tablePages 0x00001FF8 0x10 = [1, 2] ∧ tablePages 0xFFFFF000 0 = [0xFFFFF] := by decide

/-- Program P6: after the IRET the WAIT at 100 is stepped through. -/
theorem test_iret_then_step :
    nextAnd (step { put (iretStack 0 0x00000102) 0x200 [0xCF] with cr0 := 0 }) (fun t =>
      t.trapped == none && t.eip == 0x100 && t.eflags == 0x102 && t.r32 .esp == 0x1000) = true := by decide

theorem test_reset_memory_wf : State.reset.mem.wf = true ∧ storedWf State.reset.stored = true := by decide

/-! ## Witnesses: for each statement with hypotheses, a state and operands that meet them -/

/-- An instruction's bytes at 0200 in real address mode. -/
def atCode (s : State) (bs : List Byte) : State := put s 0x200 bs

theorem witness_EncodeOfDecode : decodeBytes [0x0F, 0x20, 0xC3, 0x90] = .done (.movR32Cr .ebx 0) := by decide
theorem witness_DecoderWaitsForEveryByte :
    0 < (encode .pushf).length ∧ 6 < (encode (.lgdt 0x2000)).length ∧ 2 < (encode (.movR32Cr .ebx 0)).length := by decide
theorem witness_DecoderRefusesByName :
    (0x66 : Byte) ∈ ([0x66, 0x67, 0xF0, 0xF2, 0xF3, 0x26, 0x2E, 0x36, 0x3E, 0x64, 0x65] : List Byte) ∧
    (0xBF : Byte).toNat / 64 ≠ 3 ∧ ¬ ((0x04 : Byte).toNat / 64 = 0 ∧ (0x04 : Byte).toNat % 8 = 5) ∧
    ¬ ((0x45 : Byte).toNat / 64 = 0 ∧ (0x45 : Byte).toNat % 8 = 5) := by decide

/-- LGDT of memory that was given no byte: the meaning faults. -/
theorem witness_StepRuns_fault :
    (atCode rm [0x0F, 0x01, 0x15, 0x00, 0x20, 0x00, 0x00]).ReadyToFetch ∧
    fetch (atCode rm [0x0F, 0x01, 0x15, 0x00, 0x20, 0x00, 0x00])
      = .ok (.lgdt 0x2000, atCode rm [0x0F, 0x01, 0x15, 0x00, 0x20, 0x00, 0x00]) ∧
    exec (.lgdt 0x2000) (atCode rm [0x0F, 0x01, 0x15, 0x00, 0x20, 0x00, 0x00]) = .fault (.byteNotGiven 0x2000) :=
  ⟨by decide, rfl, rfl⟩
theorem witness_StepRuns_refusal :
    (atCode rm [0xCD, 0x21]).ReadyToFetch ∧ fetch (atCode rm [0xCD, 0x21]) = .ok (.intImm 0x21, atCode rm [0xCD, 0x21]) ∧
    exec (.intImm 0x21) (atCode rm [0xCD, 0x21]) = .refused .controlTransferNotInSource := ⟨by decide, rfl, rfl⟩
theorem witness_StepRuns_trap :
    (atCode { rm with cr0 := 0x0B } [0x9B]).ReadyToFetch ∧
    fetch (atCode { rm with cr0 := 0x0B } [0x9B]) = .ok (.wait, atCode { rm with cr0 := 0x0B } [0x9B]) ∧
    nextAnd (exec .wait (atCode { rm with cr0 := 0x0B } [0x9B])) (fun t => t.trapped == some (.exc 7)) = true :=
  ⟨by decide, rfl, by decide⟩
/-- Also of StepFetchesBytesAtEip. -/
theorem witness_StepRuns_next :
    (atCode rm [0x9B]).ReadyToFetch ∧ (atCode rm [0x9B]).InstrAt .wait ∧
    fetch (atCode rm [0x9B]) = .ok (.wait, atCode rm [0x9B]) ∧ (atCode rm [0x9B]).tf = false ∧
    nextAnd (exec .wait (atCode rm [0x9B])) (fun t => t.trapped == none &&
      (List.range 4).all (fun n => !t.breakEnabled n)) = true := ⟨by decide, by decide, rfl, rfl, by decide⟩
/-- A fetch that leaves CS, one of a byte never given, and one refused. -/
theorem witness_StepRuns_fetchStops :
    fetch { rm with eip := 0x10000 } = .error (.raise (.exc 13)) ∧ rm.ReadyToFetch ∧
    fetch rm = .error (.fault (.byteNotGiven 0x200)) ∧ (atCode rm [0x90]).ReadyToFetch ∧
    fetch (atCode rm [0x90]) = .error (.refuse .notInSpec) := ⟨rfl, by decide, rfl, by decide, rfl⟩
theorem witness_StepFetches_rejects :
    (atCode rm [0x90]).CodeAt [0x90] ∧ FetchGoesOn [0x90] ∧ decodeBytes [0x90] = .reject .notInSpec ∧
    (atCode rm [0x66]).CodeAt [0x66] ∧ FetchGoesOn [0x66] ∧ decodeBytes [0x66] = .reject .prefixByte ∧
    (atCode rm [0x0F, 0x20, 0x03]).CodeAt [0x0F, 0x20, 0x03] ∧ FetchGoesOn [0x0F, 0x20, 0x03] ∧
    decodeBytes [0x0F, 0x20, 0x03] = .reject .modRMShape ∧
    (atCode rm [0x0F, 0x20, 0x03]).ReadyToFetch ∧ (atCode rm [0x66]).ReadyToFetch :=
  ⟨by decide, by decide, by decide, by decide, by decide, by decide, by decide, by decide, by decide, by decide, by decide⟩
theorem witness_StepFetches_lastBytes :
    (put { rm with eip := 0xFFFD } 0xFFFD [0x0F, 0x20, 0xC3]).ReadyToFetch ∧
    (put { rm with eip := 0xFFFD } 0xFFFD [0x0F, 0x20, 0xC3]).InstrAt (.movR32Cr .ebx 0) := by decide
/-- Also of DataBreakpointTrapsAfterInstruction. -/
theorem witness_StepRuns_dataHit :
    p4.ReadyToFetch ∧ fetch p4 = .ok (.pushf, p4) ∧ p4.tf = false ∧
    nextAnd (exec .pushf p4) (fun t => t.trapped == none && t.breakEnabled 0 &&
      (dataAccesses .pushf p4).any (t.dataCond 0) && (List.range 4).all (fun n => !t.breakUndefined n)) = true :=
  ⟨by decide, rfl, rfl, by decide⟩
/-- Also of SingleStepTrapsAfterInstruction. -/
theorem witness_StepRuns_singleStep :
    (atCode (pm 0 0x102) [0x9B]).ReadyToFetch ∧ fetch (atCode (pm 0 0x102) [0x9B]) = .ok (.wait, atCode (pm 0 0x102) [0x9B]) ∧
    (atCode (pm 0 0x102) [0x9B]).tf = true ∧
    nextAnd (exec .wait (atCode (pm 0 0x102) [0x9B])) (fun t => t.trapped == none) = true := ⟨by decide, rfl, rfl, by decide⟩

theorem witness_TrappedHasNoStep : (rm.raised 13).trapped = some (.exc 13) := rfl
theorem witness_StepKeepsLegal :
    (atCode rm [0x0F, 0x01, 0xF0]).Legal ∧ (p4).Legal ∧ (v86 0x23002).Legal ∧
    nextAnd (step (atCode rm [0x0F, 0x01, 0xF0])) (fun _ => true) = true ∧ nextAnd (step p4) (fun _ => true) = true := by
  decide
theorem witness_AdditionFlags : 8 ≤ 8 ∧ 8 ≤ 32 ∧ 0 < 1 := by decide
theorem witness_StringStepFollowsDf :
    1 ∈ [1, 2, 4] ∧ 4 ∈ [1, 2, 4] ∧ rm.df = false ∧ ({ rm with eflags := 0x402 } : State).df = true := by decide

/-- Paging on, the stack in page 5, and the translation buffer holding the page of the code, as the fetch leaves it. -/
def pagedStack : State :=
  { (pm 0 2).setR32 .esp 0x5000 with cr0 := 0x80000011, tlb := [⟨0, [none]⟩] }

/-- The lowest and the highest place of a push in real address mode. -/
theorem witness_PushfStoresItsImage :
    rm.allowed .flags .store = true ∧
    (pushfValue (rm.setR32 .esp 4)).2.Maps .write .ss ((rm.setR32 .esp 4).r32 .esp - 4) 4 [0, 1, 2, 3] (rm.setR32 .esp 4) ∧
    (pushfValue (rm.setR32 .esp 0x10000)).2.Maps .write .ss ((rm.setR32 .esp 0x10000).r32 .esp - 4) 4
      [0xFFFC, 0xFFFD, 0xFFFE, 0xFFFF] (rm.setR32 .esp 0x10000) :=
  ⟨by decide, ⟨by decide, by decide, rfl, by decide⟩, ⟨by decide, by decide, rfl, by decide⟩⟩
theorem witness_PushfImageBits : rm.rf = false := rfl

/-- A state whose stack holds the POPF image 00003202. -/
def popStack : State := put (rm.setR32 .esp 0x1000) 0x1000 [0x02, 0x32, 0x00, 0x00]

/-- Also of ImageDecidesRf. -/
theorem witness_PopfLoadsItsImage :
    popStack.allowed .flags .load = true ∧
    popStack.Maps .read .ss (popStack.r32 .esp) 4 [0x1000, 0x1001, 0x1002, 0x1003] popStack ∧
    popStack.HoldsBytes [0x1000, 0x1001, 0x1002, 0x1003] (toBytesLE (0x00003202 : Word).toNat 4) ∧
    popStack.trapped = none ∧ nextAnd (exec .popf popStack) (fun t => t.trapped == none) = true :=
  ⟨by decide, ⟨by decide, by decide, rfl, by decide⟩, by decide, rfl, by decide⟩
theorem witness_PopFlagsByPrivilege : 0 < 32 ∧ 9 < 32 ∧ 12 < 32 ∧ 31 < 32 := by decide

/-- The three reads of an IRET at 0FF4 and what they hold, in a state with that stack. -/
abbrev FrameAt (s : State) (newEip newCs image : Word) : Prop :=
  s.Maps .read .ss (s.r32 .esp) 4 [0xFF4, 0xFF5, 0xFF6, 0xFF7] s ∧
  s.HoldsBytes [0xFF4, 0xFF5, 0xFF6, 0xFF7] (toBytesLE newEip.toNat 4) ∧
  s.Maps .read .ss (s.r32 .esp + 4) 4 [0xFF8, 0xFF9, 0xFFA, 0xFFB] s ∧
  s.HoldsBytes [0xFF8, 0xFF9, 0xFFA, 0xFFB] (toBytesLE newCs.toNat 4) ∧
  s.Maps .read .ss (s.r32 .esp + 8) 4 [0xFFC, 0xFFD, 0xFFE, 0xFFF] s ∧
  s.HoldsBytes [0xFFC, 0xFFD, 0xFFE, 0xFFF] (toBytesLE image.toNat 4)

/-- Also of ImageDecidesRf. -/
theorem witness_IretReturnsToFrame :
    FrameAt (iretStack 0x1234 0x00010202) 0x100 0x1234 0x00010202 ∧ (iretStack 0x1234 0x00010202).mode = .rm ∧
    (iretStack 0x1234 0x00010202).pagingOn = false ∧ (iretStack 0x1234 0x00010202).trapped = none :=
  ⟨⟨⟨by decide, by decide, rfl, by decide⟩, by decide, ⟨by decide, by decide, rfl, by decide⟩, by decide,
    ⟨by decide, by decide, rfl, by decide⟩, by decide⟩, by decide, by decide, rfl⟩

/-- The same stack in protected mode. -/
def iretStackPm (cpl : BitVec 2) (image : Word) : State := { iretStack 0x1234 image with cr0 := 0x11, cpl := cpl }

theorem witness_IretInProtectedMode :
    FrameAt (iretStackPm 0 0x00010202) 0x100 0x1234 0x00010202 ∧ (iretStackPm 0 0x00010202).mode = .pm ∧
    (iretStackPm 0 0x00010202).nt = false ∧ (0x00010202 : Word).getLsbD 17 = false ∧
    (iretStackPm 3 0x00023202).cpl ≠ 0 :=
  ⟨⟨⟨by decide, by decide, rfl, by decide⟩, by decide, ⟨by decide, by decide, rfl, by decide⟩, by decide,
    ⟨by decide, by decide, rfl, by decide⟩, by decide⟩, by decide, by decide, by decide, by decide⟩
theorem witness_IretStopsByName :
    FrameAt (iretStackPm 0 0x00020002) 0x100 0x1234 0x00020002 ∧ (iretStackPm 0 0x00020002).mode = .pm ∧
    (iretStackPm 0 0x00020002).nt = false ∧ (iretStackPm 0 0x00020002).cpl = 0 ∧ (0x00020002 : Word).getLsbD 17 = true ∧
    (v86 0x23002).mode = .v86 ∧ (pm 0 0x4002).mode = .pm ∧ (pm 0 0x4002).nt = true :=
  ⟨⟨⟨by decide, by decide, rfl, by decide⟩, by decide, ⟨by decide, by decide, rfl, by decide⟩, by decide,
    ⟨by decide, by decide, rfl, by decide⟩, by decide⟩, by decide, by decide, by decide, by decide, by decide, by decide,
    by decide⟩

/-- Of InputsComplete and OutputsComplete, and of IoTrapsAboveIopl. -/
theorem witness_Io :
    rm.IoAllowed ∧ (pm 2 0x2002).IoAllowed ∧ (v86 0x23002).IoAllowed ∧ ¬ (pm 3 0x2002).IoAllowed ∧ ¬ (v86 0x22002).IoAllowed := by
  decide

/-- Of ControlRegisterStores, ControlRegisterLoads, DebugRegisterMoves, TestRegisterMoves and the LGDT and LIDT clauses. -/
theorem witness_allowed :
    (∀ g ∈ [RegGroup.control, .debug, .test, .gdtr, .idtr, .flags], ∀ d ∈ [Direction.load, .store],
      rm.allowed g d = true ∧ (pm 0 2).allowed g d = true) ∧ (v86 0x20002).allowed .control .store = true := by decide
theorem witness_ControlRegisterLoads :
    ((0x80000000 : Word).getLsbD 31 = true ∧ (0x80000000 : Word).getLsbD 0 = false) ∧
    ((0x7FFFFFE0 : Word).getLsbD 31 = false) ∧ ((0x80000001 : Word).getLsbD 0 = true) := by decide
/-- Of LmswLoadsLowBits, SegmentLoads, SystemSegmentLoads and SystemSegmentStores. -/
theorem witness_modes :
    rm.mode = .rm ∧ (pm 0 2).mode = .pm ∧ (pm 0 2).cpl = 0 ∧ (pm 3 2).mode = .pm ∧ (pm 3 2).cpl ≠ 0 ∧
    (v86 0x20002).mode = .v86 := by decide
/-- Of SystemSegmentLoads' view: an address in the GDT, one in the LDT, one in neither. -/
theorem witness_DescriptorView :
    ((0x1007 : Word) - 0x1000).toNat ≤ (7 : Half).toNat ∧ ((0x3000 : Word) - 0x3000).toNat ≤ (0 : Word).toNat ∧
    (7 : Half).toNat < ((0x1008 : Word) - 0x1000).toNat ∧ (0 : Word).toNat < ((0x1008 : Word) - 0x3000).toNat ∧
    rm.pagingOn = false ∧ rm.isInstalled 0x1007 = true ∧ pagedStack.pagingOn = true ∧
    pagedStack.staleWalks ((0x5000 : Word).extractLsb' 12 20) .read pagedStack.curCpl = [] :=
  ⟨by decide, by decide, by decide, by decide, by decide, by decide, by decide, rfl⟩
theorem witness_Wait :
    (({ rm with cr0 := 0x0B } : State).mp = true ∧ ({ rm with cr0 := 0x0B } : State).ts = true) ∧
    ¬ (({ rm with cr0 := 0x0D } : State).mp = true ∧ ({ rm with cr0 := 0x0D } : State).ts = true) := by decide
theorem witness_Esc :
    ({ rm with cr0 := 0x04 } : State).em = true ∧
    (({ rm with cr0 := 0x0A } : State).ts = true ∧ ({ rm with cr0 := 0x0A } : State).mp = true) ∧
    ({ rm with cr0 := 0x08 } : State).em = false ∧ ({ rm with cr0 := 0x08 } : State).mp = false := by decide
/-- Of SegmentLoads and SegmentStores: the first and the last number, and a refused one. -/
theorem witness_Segment :
    SegName.ofNum 0 = some .es ∧ SegName.ofNum 5 = some .gs ∧ SegName.es ≠ .cs ∧ SegName.gs ≠ .cs ∧
    ((5 : BitVec 3), SegName.gs) ∈ [(0, SegName.es), (1, .cs), (2, .ss), (3, .ds), (4, .fs), (5, .gs)] ∧
    6 ≤ (6 : BitVec 3).toNat := by decide

/-- An LGDT operand at the end of the segment. -/
def tableOperand : State := put rm 0xFFFA [0xFF, 0x03, 0x00, 0x10, 0x00, 0x00]

/-- Of TableRegisterLoads and TableRegisterStores. -/
theorem witness_TableRegisters :
    tableOperand.Maps .read .ds 0xFFFA 6 [0xFFFA, 0xFFFB, 0xFFFC, 0xFFFD, 0xFFFE, 0xFFFF] tableOperand ∧
    tableOperand.HoldsBytes [0xFFFA, 0xFFFB, 0xFFFC, 0xFFFD, 0xFFFE, 0xFFFF]
      (toBytesLE (0x03FF : Half).toNat 2 ++ toBytesLE (0x1000 : Word).toNat 4) ∧
    rm.Maps .write .ds 0 6 [0, 1, 2, 3, 4, 5] rm :=
  ⟨⟨by decide, by decide, rfl, by decide⟩, by decide, ⟨by decide, by decide, rfl, by decide⟩⟩

theorem witness_DeniedAccessTraps :
    (Instr.movR32Cr .eax 0).wellFormed = true ∧ (pm 3 2).allowed .control .store = false ∧
    (Instr.lldt .eax).wellFormed = true ∧ rm.allowed .ldtr .load = false ∧
    (v86 0x22002).allowed .flags .store = false ∧ (v86 0x20002).allowed .test .load = false := by decide
theorem witness_UnprivilegedCodeIsConfined :
    (pm 3 0x2002).mode = .pm ∧ (pm 3 0x2002).cpl ≠ 0 ∧ (pm 3 0x2002).iopl.toNat < (pm 3 0x2002).cpl.toNat ∧
    nextAnd (exec .wait (pm 3 0x2002)) (fun _ => true) = true := by decide
theorem witness_ModeChanges :
    rm.vm = false ∧ nextAnd (exec (.lmsw .eax) (rm.setR32 .eax 1)) (fun t => t.mode == .pm) = true ∧
    nextAnd (exec (.movCrR32 0 .eax) (pm 0 2)) (fun t => t.mode == .rm) = true ∧
    (v86 0x23002).pe = true ∧ nextAnd (exec .wait (v86 0x23002)) (fun t => t.mode == .v86) = true := by decide
theorem witness_ExceptionsArePrecise :
    (pm 3 2).trapped = none ∧ nextAnd (exec (.lmsw .eax) (pm 3 2)) (fun t => t.trapped != none) = true := by decide
theorem witness_CompletionClearsRfAndAdvances :
    (pm 0 0x10002).trapped = none ∧ nextAnd (exec .wait (pm 0 0x10002)) (fun t => t.trapped == none) = true ∧
    Instr.wait ≠ .popf ∧ Instr.wait ≠ .iret := by decide
theorem witness_OnlyStoresChangeMemory :
    nextAnd (exec (.sgdt 0x3000) rm) (fun _ => true) = true ∧
    translateRange rm .write (linearAddr (rm.seg .ds) 0x3000) 6
      = .ok ([0x3000, 0x3001, 0x3002, 0x3003, 0x3004, 0x3005], rm) ∧
    nextAnd (exec .pushf (rm.setR32 .esp 4)) (fun _ => true) = true ∧ nextAnd (exec .wait rm) (fun _ => true) = true :=
  ⟨by decide, rfl, by decide, by decide⟩
theorem witness_PopUndoesPush :
    rm.pagingOn = false ∧ attrAllows (rm.seg .ss).attr .read rm.curCpl = true ∧
    push32 (rm.setR32 .esp 4) 0xDEADBEEF
      = .ok ((rm.storePhys [0, 1, 2, 3] [0xEF, 0xBE, 0xAD, 0xDE]).setR32 .esp 0) := ⟨by decide, by decide, rfl⟩
theorem witness_BoundsViolationTraps :
    (rm.setR32 .esp 0x10001).Barred .write .ss ((rm.setR32 .esp 0x10001).r32 .esp - 4) 4 ∧
    (rm.setR32 .esp 0xFFFD).Barred .read .ss ((rm.setR32 .esp 0xFFFD).r32 .esp) 4 ∧
    rm.Barred .read .ds 0xFFFB 6 ∧ rm.Barred .write .ds 0xFFFB 6 ∧ ¬ rm.Barred .read .ds 0xFFFA 6 := by decide
/-- A segment that denies reads at CPL 0. -/
theorem witness_Barred_attributes :
    (rm.setSeg .ds ⟨0, 0, 0xFFFF, 0xFEF⟩).Barred .read .ds 0 6 ∧ ¬ (rm.setSeg .ds ⟨0, 0, 0xFFFF, 0xFEF⟩).Barred .write .ds 0 6 := by
  decide
/-- An IRET whose second pop, and one whose third pop, is the first to leave the segment. -/
theorem witness_Bounds_iret :
    (put (rm.setR32 .esp 0xFFFB) 0xFFFB [0, 0, 0, 0]).Maps .read .ss 0xFFFB 4 [0xFFFB, 0xFFFC, 0xFFFD, 0xFFFE]
      (put (rm.setR32 .esp 0xFFFB) 0xFFFB [0, 0, 0, 0]) ∧
    (put (rm.setR32 .esp 0xFFFB) 0xFFFB [0, 0, 0, 0]).HoldsBytes [0xFFFB, 0xFFFC, 0xFFFD, 0xFFFE] [0, 0, 0, 0] ∧
    rm.Barred .read .ss 0xFFFF 4 ∧
    (put rm 0xFFF7 [0, 0, 0, 0, 0, 0, 0, 0]).Maps .read .ss 0xFFFB 4 [0xFFFB, 0xFFFC, 0xFFFD, 0xFFFE]
      (put rm 0xFFF7 [0, 0, 0, 0, 0, 0, 0, 0]) :=
  ⟨⟨by decide, by decide, rfl, by decide⟩, by decide, by decide, ⟨by decide, by decide, rfl, by decide⟩⟩
/-- A fetch that leaves CS at its first byte, one denied by the attributes, and one that leaves CS at its second byte. -/
theorem witness_Bounds_fetch :
    ({ rm with eip := 0x10000 } : State).ReadyToFetch ∧ ({ rm with eip := 0x10000 } : State).Barred .execute .cs 0x10000 1 ∧
    (rm.setSeg .cs ⟨0, 0, 0xFFFF, 0xFFE⟩).Barred .execute .cs 0x200 1 ∧
    (put { rm with eip := 0xFFFF } 0xFFFF [0x0F]).ReadyToFetch ∧ (put { rm with eip := 0xFFFF } 0xFFFF [0x0F]).CodeAt [0x0F] ∧
    FetchGoesOn [0x0F] ∧ decodeBytes [0x0F] = .more ∧ ((rm.seg .cs).limit.toNat < 0xFFFF + 1) :=
  ⟨by decide, by decide, by decide, by decide, by decide, by decide, by decide, by decide⟩
theorem witness_PageMissLeavesAddress :
    pagedStack.pagingOn = true ∧ pagedStack.trapped = none ∧ pagedStack.allowed .flags .load = true ∧
    (pagedStack.r32 .esp).toNat + 4 ≤ (pagedStack.seg .ss).limit.toNat + 1 ∧
    attrAllows (pagedStack.seg .ss).attr .read pagedStack.curCpl = true ∧
    pagedStack.staleWalks (((pagedStack.seg .ss).base + pagedStack.r32 .esp).extractLsb' 12 20) .read pagedStack.curCpl = [] ∧
    (∀ e ∈ pagedStack.tlb, e.page ≠ 5) :=
  ⟨by decide, rfl, by decide, by decide, by decide, rfl, by decide⟩
/-- The first byte stored to, and the last of three. -/
theorem witness_StoredByteIsNotFetched :
    ({ rm with stored := [0x200] } : State).ReadyToFetch ∧ ({ rm with stored := [0x200] } : State).CodeAt [] ∧
    decodeBytes [] = .more ∧ (rm.fetchLinear 0).toNat ∈ [0x200] ∧
    ({ atCode rm [0x0F, 0x20, 0xC3] with stored := [0x202] } : State).ReadyToFetch ∧
    ({ atCode rm [0x0F, 0x20, 0xC3] with stored := [0x202] } : State).CodeAt [0x0F, 0x20] ∧
    FetchGoesOn [0x0F, 0x20] ∧ decodeBytes [0x0F, 0x20] = .more ∧ (rm.fetchLinear 2).toNat ∈ [0x202] ∧
    0x200 + 2 ≤ (rm.seg .cs).limit.toNat :=
  ⟨by decide, by decide, by decide, by decide, by decide, by decide, by decide, by decide, by decide, by decide⟩
theorem witness_InterruptTakenOnlyWithIf :
    (pm 0 0x202).trapped = none ∧ (pm 0 0x202).ifl = true ∧ ({ pm 0 0x202 with intrLine := [true] } : State).intrNow = true ∧
    ({ pm 0 0x202 with intrLine := [false] } : State).intrNow = false ∧ (pm 0 2).ifl = false := by decide
theorem witness_InstructionBreakpointFaults :
    (waitAt3000 2).trapped = none ∧ (waitAt3000 2).ifl = false ∧ (∀ n < 4, (waitAt3000 2).breakUndefined n = false) ∧
    (waitAt3000 2).rf = false ∧ (waitAt3000 2).breakEnabled 2 = true ∧ (waitAt3000 2).breakKind 2 = 0 ∧
    (waitAt3000 2).breakAddr 2 = (waitAt3000 2).fetchLinear 0 ∧
    (∀ n < 4, ({ waitAt3000 2 with dr7 := 0x00020020 } : State).breakEnabled n = true →
      ({ waitAt3000 2 with dr7 := 0x00020020 } : State).breakUndefined n = false) ∧
    ({ waitAt3000 2 with dr7 := 0x00020020 } : State).breakUndefined 0 = true := by decide
theorem witness_DataConditionByKindAndRange :
    p4.breakUndefined 0 = false ∧ p4.breakUndefined 3 = false ∧ Instr.wait ≠ .pushf ∧ Instr.wait ≠ .popf ∧ Instr.wait ≠ .iret ∧
    ({ rm with dr7 := 0x00050000 } : State).breakLenCode 0 = 1 ∧ ({ rm with dr7 := 0x00050000 } : State).breakUndefined 0 = false := by
  decide
theorem witness_Dr6BitsStay :
    nextAnd (step (atCode { rm with dr6 := 0x4001 } [0x9B])) (fun _ => true) = true ∧
    fetch (atCode { rm with dr6 := 0x4001 } [0x9B]) = .ok (.wait, atCode { rm with dr6 := 0x4001 } [0x9B]) ∧
    (atCode { rm with dr6 := 0x4001 } [0x9B]).dr6.getLsbD 14 = true := ⟨by decide, rfl, by decide⟩
/-- One state for each undefined configuration: R/W 10, LEN 10, an execution breakpoint with LEN 01, a misaligned one. -/
theorem witness_UndefinedBreakpointStops :
    (({ rm with dr7 := 0x00020002 } : State).breakEnabled 0 = true ∧ ({ rm with dr7 := 0x00020002 } : State).breakKind 0 = 2) ∧
    ({ rm with dr7 := 0x00080002 } : State).breakLenCode 0 = 2 ∧
    (({ rm with dr7 := 0x00040002 } : State).breakKind 0 = 0 ∧ ({ rm with dr7 := 0x00040002 } : State).breakLenCode 0 ≠ 0) ∧
    (({ rm with dr0 := 0x1001, dr7 := 0x000D0002 } : State).breakAddr 0).toNat %
      lenBytes (({ rm with dr0 := 0x1001, dr7 := 0x000D0002 } : State).breakLenCode 0) ≠ 0 := by decide

end Sys2Proof.Tests
end

section
/-! PROOFS. The bits of the flag images, what retiring leaves of the flags, and what a debug report and a translation leave
alone. -/

namespace Sys2Proof.Machine

/-! ## Bits of EFLAGS -/

theorem getLsbD_mergeBits (old new m : Word) (i : Nat) :
    (mergeBits old new m).getLsbD i = if m.getLsbD i then new.getLsbD i else old.getLsbD i := by
  unfold mergeBits
  by_cases hi : i < 32
  · simp only [BitVec.getLsbD_or, BitVec.getLsbD_and, BitVec.getLsbD_not, hi, decide_true, Bool.true_and]
    cases m.getLsbD i <;> simp
  · have hge : 32 ≤ i := by omega
    simp [BitVec.getLsbD_of_ge, hge]

/-- A word has no bit outside the mask `k` exactly when each of its bits is one of `k`. -/
theorem and_not_eq_zero_iff (x k : Word) : x &&& ~~~k = 0 ↔ ∀ i < 32, x.getLsbD i = true → k.getLsbD i = true := by
  constructor
  · intro h i hi hx
    have hbit := congrArg (fun w : Word => w.getLsbD i) h
    simpa [hi, hx] using hbit
  · intro h
    refine BitVec.eq_of_getLsbD_eq fun i hi => ?_
    cases hx : x.getLsbD i with
    | false => simp [hx]
    | true => simp [hx, h i hi hx]

theorem and_and_not_eq_zero (x k : Word) : x &&& k &&& ~~~k = 0 := by
  rw [BitVec.and_assoc, BitVec.and_not_self]
  exact BitVec.and_zero

/-- Clearing bits sets none outside the mask. -/
theorem and_and_not_eq_zero_of_left {x k : Word} (h : x &&& ~~~k = 0) (m : Word) : x &&& m &&& ~~~k = 0 := by
  rw [BitVec.and_assoc, BitVec.and_comm m, ← BitVec.and_assoc, h]
  exact BitVec.zero_and

theorem or_and_not_eq_zero {x y k : Word} (hx : x &&& ~~~k = 0) (hy : y &&& ~~~k = 0) :
    (x ||| y) &&& ~~~k = 0 := by
  rw [BitVec.and_comm, BitVec.and_or_distrib_left, BitVec.and_comm, hx, BitVec.and_comm, hy]
  rfl

/-- A merge under a mask inside `k` sets no bit outside `k`. -/
theorem mergeBits_and_not_eq_zero {old m k : Word} (new : Word) (ho : old &&& ~~~k = 0) (hm : m &&& ~~~k = 0) :
    mergeBits old new m &&& ~~~k = 0 := by
  refine or_and_not_eq_zero (and_and_not_eq_zero_of_left ho _) ?_
  rw [BitVec.and_assoc, hm]
  exact BitVec.and_zero

/-- POPF and IRET load implemented bits of EFLAGS only (R21, R121). -/
theorem popMask_and_not_eflagsMask (cpl iopl : BitVec 2) : popMask cpl iopl &&& ~~~eflagsMask = 0 := by
  unfold popMask
  split <;> split <;> rfl

/-- The bits that POPF and IRET load whatever the privilege, and those they never load (R121). -/
theorem getLsbD_popMask_rf (cpl iopl : BitVec 2) : (popMask cpl iopl).getLsbD 16 = true := by
  unfold popMask
  split <;> split <;> rfl

theorem getLsbD_popMask_vm (cpl iopl : BitVec 2) : (popMask cpl iopl).getLsbD 17 = false := by
  unfold popMask
  split <;> split <;> rfl

theorem getLsbD_popMask_one (cpl iopl : BitVec 2) : (popMask cpl iopl).getLsbD 1 = false := by
  unfold popMask
  split <;> split <;> rfl

/-- IF is loaded only where CPL is at most the old IOPL (R121). -/
theorem getLsbD_popMask_if (cpl iopl : BitVec 2) : (popMask cpl iopl).getLsbD 9 = decide (cpl ≤ iopl) := by
  unfold popMask
  by_cases h : cpl ≤ iopl
  · rw [if_pos h, decide_eq_true h]
    split <;> rfl
  · rw [if_neg h, decide_eq_false h]
    split <;> rfl

/-- IOPL is loaded only at level 0 (R121). -/
theorem getLsbD_popMask_iopl (cpl iopl : BitVec 2) (j : Nat) (hj : j < 2) :
    (popMask cpl iopl).getLsbD (12 + j) = decide (cpl = 0) := by
  unfold popMask
  have hj' : j = 0 ∨ j = 1 := by omega
  by_cases h : cpl = 0
  · rw [if_pos h, decide_eq_true h]
    rcases hj' with rfl | rfl <;> split <;> rfl
  · rw [if_neg h, decide_eq_false h]
    rcases hj' with rfl | rfl <;> split <;> rfl

theorem popFlags_and_not_eflagsMask {old : Word} (image : Word) (cpl : BitVec 2) (h : old &&& ~~~eflagsMask = 0) :
    popFlags old image cpl &&& ~~~eflagsMask = 0 :=
  mergeBits_and_not_eq_zero _ h (popMask_and_not_eflagsMask _ _)

theorem getLsbD_popFlags_one (old image : Word) (cpl : BitVec 2) :
    (popFlags old image cpl).getLsbD 1 = old.getLsbD 1 := by
  rw [popFlags, getLsbD_mergeBits, getLsbD_popMask_one, if_neg Bool.false_ne_true]

/-- RF after POPF or IRET is the image's (R23 c). -/
theorem getLsbD_popFlags_rf (old image : Word) (cpl : BitVec 2) :
    (popFlags old image cpl).getLsbD 16 = image.getLsbD 16 := by
  rw [popFlags, getLsbD_mergeBits, getLsbD_popMask_rf, if_pos rfl]

theorem getLsbD_popFlags_vm (old image : Word) (cpl : BitVec 2) :
    (popFlags old image cpl).getLsbD 17 = old.getLsbD 17 := by
  rw [popFlags, getLsbD_mergeBits, getLsbD_popMask_vm, if_neg Bool.false_ne_true]

/-- IF stays where CPL is above the old IOPL (R121). -/
theorem getLsbD_popFlags_if (old image : Word) (cpl : BitVec 2) (h : ¬ cpl ≤ old.extractLsb' 12 2) :
    (popFlags old image cpl).getLsbD 9 = old.getLsbD 9 := by
  rw [popFlags, getLsbD_mergeBits, getLsbD_popMask_if, decide_eq_false h, if_neg Bool.false_ne_true]

/-- IOPL stays at every level but 0 (R121). -/
theorem extractLsb'_popFlags_iopl (old image : Word) (cpl : BitVec 2) (h : cpl ≠ 0) :
    (popFlags old image cpl).extractLsb' 12 2 = old.extractLsb' 12 2 := by
  refine BitVec.eq_of_getLsbD_eq fun j hj => ?_
  have hm : (popMask cpl (old.extractLsb' 12 2)).getLsbD (12 + j) = false := by
    rw [getLsbD_popMask_iopl _ _ _ hj, decide_eq_false h]
  simp only [BitVec.getLsbD_extractLsb', popFlags, getLsbD_mergeBits, hm, Bool.false_eq_true, if_false]

/-! ## What completion leaves of the flags -/

/-- Completion clears bit 16 of EFLAGS and no other (R23 b). -/
theorem getLsbD_and_not_rfMask (x : Word) (i : Nat) :
    (x &&& ~~~rfMask).getLsbD i = (x.getLsbD i && !decide (i = 16)) := by
  have hm : rfMask = BitVec.twoPow 32 16 := rfl
  by_cases hi : i < 32
  · rw [hm, BitVec.getLsbD_and, BitVec.getLsbD_not, BitVec.getLsbD_twoPow]
    simp [hi, eq_comm]
  · have hge : 32 ≤ i := by omega
    simp [BitVec.getLsbD_of_ge, hge]

section
variable (s : State) (n : Nat)

@[simp] theorem State.retire_rf : (s.retire n).rf = false := by
  simp only [State.rf, State.retire_eflags, getLsbD_and_not_rfMask, decide_true, Bool.not_true, Bool.and_false]

@[simp] theorem State.retire_vm : (s.retire n).vm = s.vm := by
  simp only [State.vm, State.retire_eflags, getLsbD_and_not_rfMask]
  exact Bool.and_true _

@[simp] theorem State.retire_ifl : (s.retire n).ifl = s.ifl := by
  simp only [State.ifl, State.retire_eflags, getLsbD_and_not_rfMask]
  exact Bool.and_true _

@[simp] theorem State.retire_iopl : (s.retire n).iopl = s.iopl := by
  refine BitVec.eq_of_getLsbD_eq fun j hj => ?_
  have h16 : 12 + j ≠ 16 := by omega
  simp only [State.iopl, State.retire_eflags, BitVec.getLsbD_extractLsb', getLsbD_and_not_rfMask, decide_eq_false h16,
    Bool.not_false, Bool.and_true]

end

/-! ## Debug reports -/

/-- DR6's B bits lie among its implemented ones (R62). -/
theorem hitBits_and_not_dr6Mask (ns : List Nat) (h : ∀ n ∈ ns, n ∈ breakpoints) :
    hitBits ns &&& ~~~dr6Mask = 0 := by
  induction ns with
  | nil => rfl
  | cons n ns ih =>
    have hbit : ∀ m ∈ breakpoints, (1#32 <<< m) &&& ~~~dr6Mask = 0 := by decide
    exact or_and_not_eq_zero (hbit n (h n (by simp))) (ih fun m hm => h m (by simp [hm]))

/-- A debug report sets bits of DR6, all of them implemented where the given ones are, and clears none (R63, R67). -/
theorem reportDebug_dr6 (s : State) (bits : Word) :
    ∃ extra : Word, extra &&& ~~~dr6Mask = 0 ∧ (s.reportDebug bits).dr6 = s.dr6 ||| bits ||| extra := by
  cases hu : s.undefinedHits with
  | nil => exact ⟨0, rfl, by simp [State.reportDebug, hu]⟩
  | cons n ns =>
    refine ⟨(s.anyBits 4).setWidth 32 &&& hitBits (n :: ns), ?_, by simp [State.reportDebug, hu]⟩
    have hin : ∀ m ∈ n :: ns, m ∈ breakpoints := fun m hm => List.mem_of_mem_filter (hu ▸ hm)
    rw [BitVec.and_assoc, hitBits_and_not_dr6Mask _ hin]
    exact BitVec.and_zero

/-- Taking a debug exception changes DR6, the draw count and the trap cause only. -/
theorem takeDebug_eq (s : State) (bits : Word) :
    s.takeDebug bits = { s with dr6 := (s.reportDebug bits).dr6, draws := (s.reportDebug bits).draws,
                                trapped := some .debugException } := by
  unfold State.takeDebug
  rw [reportDebug_eq s bits]
  rfl

/-! ## Operations that change nothing a program can see -/

/-- The state after a translation, by the two fields that may differ. -/
theorem State.SameButTlb.exists_eq {s u : State} (h : s.SameButTlb u) :
    ∃ tlb draws, u = { s with tlb := tlb, draws := draws } := ⟨u.tlb, u.draws, h⟩

theorem State.SameButTlb.draw (s : State) : s.SameButTlb s.draw := rfl

theorem pushfValue_same (s : State) : s.SameButTlb (pushfValue s).2 := by
  unfold pushfValue
  split <;> rfl

end Sys2Proof.Machine
end

section
/-! PROOFS. What an instruction, and what a step, can leave, said once: the inversion of `exec` and of `step`. -/

namespace Sys2Proof.Machine

/-! ## Loads of numbered registers -/

/-- A load of a control register answers one of three updates; CR0 gets PG only together with PE (R141). -/
theorem writeCr_ok {s t : State} {n : BitVec 3} {v : Word} (h : writeCr s n v = some (.ok t)) :
    ((v.getLsbD 31 = true → v.getLsbD 0 = true) ∧ t = { s with cr0 := v &&& cr0Mask }) ∨
    t = { s with cr2 := v } ∨ t = { s with cr3 := v.extractLsb' 12 20, tlb := [] } := by
  unfold writeCr at h
  split at h
  · have h0 : loadCr0 s v = .ok t := Option.some.inj h
    unfold loadCr0 at h0
    split at h0
    · cases h0
    · rename_i hpg
      cases h0
      exact .inl ⟨fun h31 => by simpa [h31] using hpg, rfl⟩
  · cases h
    exact .inr (.inl rfl)
  · cases h
    exact .inr (.inr rfl)
  · cases h

/-- A load of a debug register writes an address, or DR6 or DR7 without their zero bits (R181). -/
theorem writeDr_some {s t : State} {n : BitVec 3} {v : Word} (h : s.writeDr n v = some t) :
    (∃ d0 d1 d2 d3, t = { s with dr0 := d0, dr1 := d1, dr2 := d2, dr3 := d3 }) ∨
    (n = 6 ∧ t = { s with dr6 := v &&& dr6Mask }) ∨ t = { s with dr7 := v &&& dr7Mask } := by
  unfold State.writeDr at h
  split at h
  case h_1 | h_2 | h_3 | h_4 =>
    cases h
    exact .inl ⟨_, _, _, _, rfl⟩
  case h_5 hn =>
    cases h
    exact .inr (.inl ⟨BitVec.eq_of_toNat_eq hn, rfl⟩)
  case h_6 =>
    cases h
    exact .inr (.inr rfl)
  case h_7 => cases h

/-- A load of a test register writes TR6 and TR7 only (R183). -/
theorem writeTr_some {s t : State} {n : BitVec 3} {v : Word} (h : s.writeTr n v = some t) :
    t = { s with tr6 := t.tr6, tr7 := t.tr7 } := by
  unfold State.writeTr at h
  split at h
  case h_1 | h_2 =>
    cases h
    rfl
  case h_3 => cases h

/-- A store of a control register changes at most the draw count (R140). -/
theorem readCr_some {s u : State} {n : BitVec 3} {v : Word} (h : readCr s n = some (v, u)) : s.SameButTlb u := by
  unfold readCr at h
  split at h
  case h_1 | h_2 | h_3 =>
    cases h
    rfl
  case h_4 => cases h

/-! ## What an instruction can leave -/

/-- An exception has been raised in `s` and nothing else was done (R214). -/
def State.Raises (s t : State) : Prop := ∃ c, t = s.takeException c

/-- A state with no trap cause is not one in which an exception was raised. -/
theorem not_raises_of_untrapped {s t : State} (ht : t.trapped = none) : ¬ s.Raises t := by
  rintro ⟨c, rfl⟩
  rw [State.takeException_trapped] at ht
  cases ht

/-- What an instruction other than POPF and IRET may have written when it retires, by the kind of state it writes; `u`
is the state after its translations and draws. -/
inductive Writes (s : State) : Instr → State → Prop where
  | general {i : Instr} {u : State} (hu : s.SameButTlb u) (g : Gprs) : Writes s i { u with gpr := g }
  | store {i : Instr} {u : State} (hu : s.SameButTlb u) {ps : List Nat} (hp : ∀ a ∈ ps, a < addressSpace)
      (bs : List Byte) (g : Gprs) : Writes s i { u.storePhys ps bs with gpr := g }
  | segment {i : Instr} {u : State} (hu : s.SameButTlb u) (n : SegName) (v : SegReg) : Writes s i (u.setSeg n v)
  | gdtr {d : Word} {u : State} (ha : s.allowed .gdtr .load = true) (hu : s.SameButTlb u) (v : TableReg) :
      Writes s (.lgdt d) { u with gdtr := v }
  | idtr {d : Word} {u : State} (ha : s.allowed .idtr .load = true) (hu : s.SameButTlb u) (v : TableReg) :
      Writes s (.lidt d) { u with idtr := v }
  | ldtr {r : Reg} {u : State} (ha : s.allowed .ldtr .load = true) (hu : s.SameButTlb u) (v : SegReg) :
      Writes s (.lldt r) { u with ldtr := v }
  | tr {r : Reg} {u : State} (ha : s.allowed .tr .load = true) (hu : s.SameButTlb u) (v : SegReg) :
      Writes s (.ltr r) { u with tr := v }
  | control {n : BitVec 3} {r : Reg} {u : State} (ha : s.allowed .control .load = true)
      (hw : writeCr s n (s.r32 r) = some (.ok u)) : Writes s (.movCrR32 n r) u
  | lmsw {r : Reg} (ha : s.allowed .control .load = true) :
      Writes s (.lmsw r) { s with cr0 := lmswCr0 s.cr0 (s.r16 r) }
  | debug {n : BitVec 3} {r : Reg} {u : State} (ha : s.allowed .debug .load = true)
      (hw : s.writeDr n (s.r32 r) = some u) : Writes s (.movDrR32 n r) u
  | test {n : BitVec 3} {r : Reg} {u : State} (ha : s.allowed .test .load = true)
      (hw : s.writeTr n (s.r32 r) = some u) : Writes s (.movTrR32 n r) u

/-- What a completed instruction may leave: POPF and IRET load EFLAGS from an image, every other one retires. -/
inductive Completes (s : State) : Instr → State → Prop where
  | retired {i : Instr} {u : State} (hw : Writes s i u) : Completes s i (u.retire (encode i).length)
  | popf {u : State} (hu : s.SameButTlb u) (image : Word) (g : Gprs) :
      Completes s .popf
        ({ u with gpr := g, eflags := popFlags s.eflags image s.curCpl }.retireKeepRf 1)
  | iret {u : State} (hu : s.SameButTlb u) (image : Word) (g : Gprs) (f : SegFile) (ip : Word) :
      Completes s .iret
        { u with gpr := g, segs := f, eip := ip, eflags := popFlags s.eflags image s.curCpl, stored := [] }

/-- An instruction raises an exception or completes. -/
def RaisesOrCompletes (s : State) (i : Instr) (t : State) : Prop := s.Raises t ∨ Completes s i t

/-- Whatever an instruction leaves when its operations answer, it leaves when it has a next state, unless it raises. -/
theorem raises_or_of_conclude {s t : State} {r : Op State} {i : Instr} (h : conclude s r = .next t)
    (hok : r = .ok t → Completes s i t) : RaisesOrCompletes s i t := by
  rcases (conclude_next_iff s t r).mp h with hr | ⟨c, -, hc⟩
  · exact .inr (hok hr)
  · exact .inl ⟨c, hc⟩

/-- An instruction that retires after writing general registers at most. -/
theorem Completes.of_general {s u t : State} {i : Instr} {n : Nat} (hu : s.SameButTlb u) (g : Gprs)
    (hn : (encode i).length = n) (h : (Except.ok ({ u with gpr := g }.retire n) : Op State) = .ok t) :
    Completes s i t := by
  cases h
  subst hn
  exact .retired (.general hu g)

/-- An instruction that passes a check and then writes general registers at most. -/
theorem checked_general_next {s u t : State} {i : Instr} {n : Nat} {check : Op Unit} (hu : s.SameButTlb u) (g : Gprs)
    (hn : (encode i).length = n) (h : conclude s (check >>= fun _ => .ok ({ u with gpr := g }.retire n)) = .next t) :
    RaisesOrCompletes s i t := by
  refine raises_or_of_conclude h fun h => ?_
  rw [bind_eq_ok] at h
  obtain ⟨_, -, h⟩ := h
  exact .of_general hu g hn h

/-- An instruction that passes a check and then stores to memory only. -/
theorem checked_store_next {s t : State} {i : Instr} {n : Nat} {check : Op Unit} {sg : SegName} {off : Word}
    {bs : List Byte} (hn : (encode i).length = n)
    (h : conclude s (check >>= fun _ => memWrite s sg off bs >>= fun u => .ok (u.retire n)) = .next t) :
    RaisesOrCompletes s i t := by
  refine raises_or_of_conclude h fun h => ?_
  simp only [bind_eq_ok] at h
  obtain ⟨_, -, u, hw, ht⟩ := h
  obtain ⟨ps, w, -, rfl, hu, -, hp, -⟩ := memWrite_ok hw
  cases ht
  subst hn
  exact .retired (.store hu hp bs w.gpr)

/-! ### The flag instructions -/

theorem execPushf_next {s t : State} (h : execPushf s = .next t) : RaisesOrCompletes s .pushf t := by
  refine raises_or_of_conclude h fun h => ?_
  simp only [bind_eq_ok] at h
  obtain ⟨_, -, s2, hpush, ht⟩ := h
  obtain ⟨s3, hw, rfl⟩ := push32_ok hpush
  obtain ⟨ps, u, -, rfl, hu, -, hp, -⟩ := memWrite_ok hw
  cases ht
  exact .retired (.store ((pushfValue_same s).trans hu) hp _ _)

/-- A pop changes ESP only, as far as a program can see. -/
theorem pop32_same {s t : State} {v : Word} (h : pop32 s = .ok (v, t)) :
    ∃ u g, s.SameButTlb u ∧ t = { u with gpr := g } := by
  obtain ⟨bs, u, -, -, hu, rfl⟩ := pop32_ok h
  exact ⟨u, _, hu, rfl⟩

theorem execPopf_next {s t : State} (h : execPopf s = .next t) : RaisesOrCompletes s .popf t := by
  refine raises_or_of_conclude h fun h => ?_
  simp only [bind_eq_ok, Prod.exists] at h
  obtain ⟨_, -, image, s1, hpop, ht⟩ := h
  obtain ⟨u, g, hu, rfl⟩ := pop32_same hpop
  cases ht
  exact .popf hu image g

/-- A change of the general registers does not hide what may differ after a translation. -/
theorem State.SameButTlb.with_gpr {s u w : State} {g : Gprs} (hu : s.SameButTlb u)
    (hw : ({ u with gpr := g } : State).SameButTlb w) : ∃ v, s.SameButTlb v ∧ w = { v with gpr := g } := by
  obtain ⟨tlb, draws, rfl⟩ := hu.exists_eq
  obtain ⟨tlb', draws', rfl⟩ := hw.exists_eq
  exact ⟨{ s with tlb := tlb', draws := draws' }, rfl, rfl⟩

theorem pop32_same_of_gpr {s u t : State} {g : Gprs} {v : Word} (hu : s.SameButTlb u)
    (h : pop32 { u with gpr := g } = .ok (v, t)) : ∃ w g', s.SameButTlb w ∧ t = { w with gpr := g' } := by
  obtain ⟨w, g', hw, rfl⟩ := pop32_same h
  obtain ⟨x, hx, rfl⟩ := hu.with_gpr hw
  exact ⟨x, g', hx, rfl⟩

theorem returnFrame_ok {s t : State} (h : returnFrame s = .ok t) : Completes s .iret t := by
  simp only [returnFrame, bind_eq_ok, Prod.exists] at h
  obtain ⟨newEip, s1, h1, newCs, s2, h2, image, s3, h3, h⟩ := h
  obtain ⟨u1, g1, hu1, rfl⟩ := pop32_same h1
  obtain ⟨u2, g2, hu2, rfl⟩ := pop32_same_of_gpr hu1 h2
  obtain ⟨u3, g3, hu3, rfl⟩ := pop32_same_of_gpr hu2 h3
  split at h
  · cases h
  · simp only [bind_eq_ok, Prod.exists] at h
    obtain ⟨cs, c, s4, hload, h⟩ := h
    split at h
    · cases h
    · obtain ⟨w, hw, rfl⟩ := hu3.with_gpr (loadSelector_ok hload).1
      cases h
      exact .iret hw image _ _ newEip

theorem execIret_next {s t : State} (h : execIret s = .next t) : RaisesOrCompletes s .iret t := by
  refine raises_or_of_conclude h fun h => ?_
  split at h
  · cases h
  · split at h
    · cases h
    · exact returnFrame_ok h

/-! ### Control, debug and test registers -/

theorem execMovR32Cr_next {s t : State} {rd : Reg} {cr : BitVec 3} (h : execMovR32Cr rd cr s = .next t) :
    RaisesOrCompletes s (.movR32Cr rd cr) t := by
  unfold execMovR32Cr at h
  split at h
  · cases h
  · rename_i v u hr
    exact checked_general_next (readCr_some hr) _ rfl h

theorem execMovCrR32_next {s t : State} {cr : BitVec 3} {rs : Reg} (h : execMovCrR32 cr rs s = .next t) :
    RaisesOrCompletes s (.movCrR32 cr rs) t := by
  refine raises_or_of_conclude h fun h => ?_
  split at h
  · cases h
  · rename_i w hw
    simp only [bind_eq_ok, requireAccess_eq_ok] at h
    obtain ⟨_, ha, u, rfl, ht⟩ := h
    cases ht
    exact .retired (.control ha hw)

theorem execLmsw_next {s t : State} {rs : Reg} (h : execLmsw rs s = .next t) :
    RaisesOrCompletes s (.lmsw rs) t := by
  refine raises_or_of_conclude h fun h => ?_
  simp only [bind_eq_ok, requireAccess_eq_ok] at h
  obtain ⟨_, ha, ht⟩ := h
  cases ht
  exact .retired (.lmsw ha)

theorem execWait_next {s t : State} (h : execWait s = .next t) : RaisesOrCompletes s .wait t := by
  refine raises_or_of_conclude h fun h => ?_
  split at h
  · cases h
  · exact .of_general (.refl s) s.gpr rfl h

theorem execEsc_next {s t : State} {x : BitVec 3} (h : execEsc x s = .next t) : RaisesOrCompletes s (.esc x) t := by
  refine raises_or_of_conclude h fun h => ?_
  split at h <;> cases h

theorem execMovR32Dr_next {s t : State} {rd : Reg} {dr : BitVec 3} (h : execMovR32Dr rd dr s = .next t) :
    RaisesOrCompletes s (.movR32Dr rd dr) t := by
  unfold execMovR32Dr at h
  split at h
  · cases h
  · exact checked_general_next (.refl s) _ rfl h

theorem execMovDrR32_next {s t : State} {dr : BitVec 3} {rs : Reg} (h : execMovDrR32 dr rs s = .next t) :
    RaisesOrCompletes s (.movDrR32 dr rs) t := by
  refine raises_or_of_conclude h fun h => ?_
  split at h
  · cases h
  · rename_i u hw
    simp only [bind_eq_ok, requireAccess_eq_ok] at h
    obtain ⟨_, ha, ht⟩ := h
    cases ht
    exact .retired (.debug ha hw)

theorem execMovR32Tr_next {s t : State} {rd : Reg} {tr : BitVec 3} (h : execMovR32Tr rd tr s = .next t) :
    RaisesOrCompletes s (.movR32Tr rd tr) t := by
  unfold execMovR32Tr at h
  split at h
  · cases h
  · exact checked_general_next (.refl s) _ rfl h

theorem execMovTrR32_next {s t : State} {tr : BitVec 3} {rs : Reg} (h : execMovTrR32 tr rs s = .next t) :
    RaisesOrCompletes s (.movTrR32 tr rs) t := by
  refine raises_or_of_conclude h fun h => ?_
  split at h
  · cases h
  · rename_i u hw
    simp only [bind_eq_ok, requireAccess_eq_ok] at h
    obtain ⟨_, ha, ht⟩ := h
    cases ht
    exact .retired (.test ha hw)

/-! ### Segment and system address registers -/

theorem execMovSegR16_next {s t : State} {sreg : BitVec 3} {rs : Reg} (h : execMovSegR16 sreg rs s = .next t) :
    RaisesOrCompletes s (.movSegR16 sreg rs) t := by
  refine raises_or_of_conclude h fun h => ?_
  split at h
  · cases h
  · split at h
    · cases h
    · simp only [bind_eq_ok, Prod.exists] at h
      obtain ⟨v, c, u, hload, ht⟩ := h
      cases ht
      exact .retired (.segment (loadSelector_ok hload).1 _ v)

theorem execMovR16Seg_next {s t : State} {rd : Reg} {sreg : BitVec 3} (h : execMovR16Seg rd sreg s = .next t) :
    RaisesOrCompletes s (.movR16Seg rd sreg) t := by
  refine raises_or_of_conclude h fun h => ?_
  split at h
  · cases h
  · exact .of_general (.refl s) _ rfl h

theorem execLgdt_next {s t : State} {d : Word} (h : execLgdt d s = .next t) : RaisesOrCompletes s (.lgdt d) t := by
  refine raises_or_of_conclude h fun h => ?_
  simp only [bind_eq_ok, requireAccess_eq_ok, Prod.exists] at h
  obtain ⟨_, ha, bs, u, hread, ht⟩ := h
  cases ht
  exact .retired (.gdtr ha (memRead_ok hread).1 _)

theorem execLidt_next {s t : State} {d : Word} (h : execLidt d s = .next t) : RaisesOrCompletes s (.lidt d) t := by
  refine raises_or_of_conclude h fun h => ?_
  simp only [bind_eq_ok, requireAccess_eq_ok, Prod.exists] at h
  obtain ⟨_, ha, bs, u, hread, ht⟩ := h
  cases ht
  exact .retired (.idtr ha (memRead_ok hread).1 _)

/-- A system selector load that answers changes nothing a program can see (R165, R167). -/
theorem loadSystem_ok {s t : State} {sel : Half} {use : SegUse} {v : SegReg}
    (h : loadSystem s sel use = .ok (v, t)) : s.SameButTlb t := by
  unfold loadSystem at h
  split at h
  · cases h
    exact afterLookup_same s
  · cases h

theorem execLldt_next {s t : State} {rs : Reg} (h : execLldt rs s = .next t) : RaisesOrCompletes s (.lldt rs) t := by
  refine raises_or_of_conclude h fun h => ?_
  simp only [bind_eq_ok, requireAccess_eq_ok, Prod.exists] at h
  obtain ⟨_, ha, v, u, hload, ht⟩ := h
  cases ht
  exact .retired (.ldtr ha (loadSystem_ok hload) v)

theorem execLtr_next {s t : State} {rs : Reg} (h : execLtr rs s = .next t) : RaisesOrCompletes s (.ltr rs) t := by
  refine raises_or_of_conclude h fun h => ?_
  simp only [bind_eq_ok, requireAccess_eq_ok, Prod.exists] at h
  obtain ⟨_, ha, v, u, hload, ht⟩ := h
  cases ht
  exact .retired (.tr ha (loadSystem_ok hload) v)

/-- THE INVERSION OF `exec`: an instruction with a next state raised an exception or completed. -/
theorem exec_next {s t : State} {i : Instr} (h : exec i s = .next t) : RaisesOrCompletes s i t := by
  cases i with
  | pushf => exact execPushf_next h
  | popf => exact execPopf_next h
  | iret => exact execIret_next h
  | jmpFar offset selector => cases h
  | callFar offset selector => cases h
  | intImm vector => cases h
  | inAlImm port => exact checked_general_next (.draw s) _ rfl h
  | inEaxImm port => exact checked_general_next (.draw s) _ rfl h
  | outImmAl port => exact checked_general_next (.refl s) s.gpr rfl h
  | outImmEax port => exact checked_general_next (.refl s) s.gpr rfl h
  | inAlDx => exact checked_general_next (.draw s) _ rfl h
  | inEaxDx => exact checked_general_next (.draw s) _ rfl h
  | outDxAl => exact checked_general_next (.refl s) s.gpr rfl h
  | outDxEax => exact checked_general_next (.refl s) s.gpr rfl h
  | movR32Cr rd cr => exact execMovR32Cr_next h
  | movCrR32 cr rs => exact execMovCrR32_next h
  | lmsw rs => exact execLmsw_next h
  | wait => exact execWait_next h
  | esc x => exact execEsc_next h
  | movSegR16 sreg rs => exact execMovSegR16_next h
  | movR16Seg rd sreg => exact execMovR16Seg_next h
  | lgdt disp => exact execLgdt_next h
  | sgdt disp => exact checked_store_next rfl h
  | lidt disp => exact execLidt_next h
  | sidt disp => exact checked_store_next rfl h
  | lldt rs => exact execLldt_next h
  | sldt rd => exact checked_general_next (.refl s) _ rfl h
  | ltr rs => exact execLtr_next h
  | str rd => exact checked_general_next (.refl s) _ rfl h
  | movR32Dr rd dr => exact execMovR32Dr_next h
  | movDrR32 dr rs => exact execMovDrR32_next h
  | movR32Tr rd tr => exact execMovR32Tr_next h
  | movTrR32 tr rs => exact execMovTrR32_next h

/-! ## What a step can leave -/

/-- What a step may leave: an exception in the state it started in, a debug fault there, what the fetched instruction
left, or what follows a completed one. The reported bits of DR6 are implemented ones. -/
inductive Steps (s : State) : State → Prop where
  | raised (c : TrapCause) : Steps s (s.takeException c)
  | debugFault {bits : Word} (hb : bits &&& ~~~dr6Mask = 0) : Steps s (s.takeDebug bits)
  | trapped {i : Instr} {s1 t : State} (hf : fetch s = .ok (i, s1)) (he : exec i s1 = .next t) : Steps s t
  | debugTrap {i : Instr} {s1 t : State} {bits : Word} (hf : fetch s = .ok (i, s1)) (he : exec i s1 = .next t)
      (hb : bits &&& ~~~dr6Mask = 0) : Steps s (t.takeDebug bits)
  | boundary {i : Instr} {s1 t : State} (hf : fetch s = .ok (i, s1)) (he : exec i s1 = .next t) :
      Steps s t.nextBoundary

/-- What ends a step before the fetch with a next state: an interrupt or an instruction breakpoint (R219). -/
theorem beforeFetch_next {s t : State} (h : beforeFetch s = some (.next t)) : Steps s t := by
  unfold beforeFetch at h
  split at h
  · cases h
  · split at h
    · cases h
      exact .raised _
    · split at h
      · cases h
      · split at h
        · cases h
          exact .debugFault (hitBits_and_not_dr6Mask _ fun n hn => List.mem_of_mem_filter hn)
        · cases h

/-- What follows a completed instruction: a debug trap or the next boundary (R219 step 6). -/
theorem afterInstr_eq (s t : State) (i : Instr) :
    (∃ bits : Word, bits &&& ~~~dr6Mask = 0 ∧ afterInstr s i t = t.takeDebug bits) ∨
      afterInstr s i t = t.nextBoundary := by
  unfold afterInstr
  dsimp only
  split
  · refine .inl ⟨_, or_and_not_eq_zero ?_ (hitBits_and_not_dr6Mask _ fun n hn => List.mem_of_mem_filter hn), rfl⟩
    split <;> rfl
  · exact .inr rfl

/-- THE INVERSION OF `step`. -/
theorem step_next {s t : State} (h : step s = .next t) : Steps s t := by
  unfold step at h
  split at h
  case h_1 o hbefore => exact beforeFetch_next (hbefore.trans (congrArg some h))
  case h_2 =>
    split at h
    case h_1 i s1 hf =>
      unfold finishStep at h
      split at h
      case h_1 u he =>
        split at h
        · cases h
          exact .trapped hf he
        · cases h
          obtain ⟨bits, hb, ht⟩ | ht := afterInstr_eq s1 u i
          · rw [ht]
            exact .debugTrap hf he hb
          · rw [ht]
            exact .boundary hf he
      case h_2 => cases h
      case h_3 => cases h
    case h_2 =>
      obtain hok | ⟨c, -, rfl⟩ := (conclude_next_iff _ _ _).mp h
      · cases hok
      · exact .raised c

end Sys2Proof.Machine
end

section
/-! PROOFS. Every step keeps a legal state legal (O9), and the reset state is one (O10). -/

namespace Sys2Proof.Machine

/-! ## What each operation does to a legal state -/

theorem State.Legal.sameButTlb {s u : State} (h : s.Legal) (hu : s.SameButTlb u) : u.Legal := by
  obtain ⟨tlb, draws, rfl⟩ := hu.exists_eq
  exact h

theorem State.Legal.takeException {s : State} (h : s.Legal) (c : TrapCause) : (s.takeException c).Legal := by
  rw [State.takeException_eq]
  exact h

theorem State.Legal.takeDebug {s : State} (h : s.Legal) {bits : Word} (hb : bits &&& ~~~dr6Mask = 0) :
    (s.takeDebug bits).Legal := by
  obtain ⟨⟨hfl, hone, hcr0, hdr6, hdr7⟩, hmode, hmem⟩ := h
  obtain ⟨extra, hx, hd⟩ := reportDebug_dr6 s bits
  rw [takeDebug_eq]
  refine ⟨⟨hfl, hone, hcr0, ?_, hdr7⟩, hmode, hmem⟩
  show (s.reportDebug bits).dr6 &&& ~~~dr6Mask = 0
  rw [hd]
  exact or_and_not_eq_zero (or_and_not_eq_zero hdr6 hb) hx

/-- A change of EFLAGS that sets no reserved bit and keeps bit 1 and VM keeps a state legal. -/
theorem State.Legal.with_eflags {s : State} (h : s.Legal) {fl : Word} (hfl : fl &&& ~~~eflagsMask = 0)
    (hone : fl.getLsbD 1 = s.eflags.getLsbD 1) (hvm : fl.getLsbD 17 = s.vm) :
    ({ s with eflags := fl } : State).Legal := by
  obtain ⟨⟨-, hone', hcr0, hdr6, hdr7⟩, hmode, hmem⟩ := h
  have hvm' : ({ s with eflags := fl } : State).vm = s.vm := hvm
  have hm : ({ s with eflags := fl } : State).mode = s.mode := by
    unfold State.mode
    rw [hvm']
    rfl
  refine ⟨⟨hfl, hone.trans hone', hcr0, hdr6, hdr7⟩, ?_, hmem⟩
  unfold State.ModeOk
  rw [hvm', hm]
  exact hmode

theorem State.Legal.retire {s : State} (h : s.Legal) (n : Nat) : (s.retire n).Legal := by
  have hl : ({ s with eflags := s.eflags &&& ~~~rfMask } : State).Legal := by
    refine h.with_eflags (and_and_not_eq_zero_of_left h.1.1 _) ?_ (s.retire_vm n)
    rw [getLsbD_and_not_rfMask]
    exact Bool.and_true _
  exact hl

/-- What POPF and IRET load into EFLAGS keeps a state legal. -/
theorem State.Legal.popFlags {s : State} (h : s.Legal) (image : Word) (cpl : BitVec 2) :
    ({ s with eflags := Machine.popFlags s.eflags image cpl } : State).Legal :=
  h.with_eflags (popFlags_and_not_eflagsMask image cpl h.1.1) (getLsbD_popFlags_one _ _ _) (getLsbD_popFlags_vm _ _ _)

/-- Where control registers may be loaded, the mode is not V86 and CPL is 0 (R70). -/
theorem State.Legal.of_controlLoad {s : State} (h : s.Legal) (ha : s.allowed .control .load = true) :
    s.vm = false ∧ s.cpl = 0 := by
  obtain ⟨-, ⟨-, hvm, hrm, -⟩, -⟩ := h
  cases hpe : s.pe with
  | false =>
    have hv : s.vm = false := by
      cases hv : s.vm with
      | false => rfl
      | true => exact absurd (hvm hv) (by simp [hpe])
    exact ⟨hv, hrm (by simp [State.mode, hpe])⟩
  | true =>
    cases hv : s.vm with
    | false =>
      have hm : s.mode = .pm := by simp [State.mode, hpe, hv]
      simpa [State.allowed, State.curCpl, hm, accessCell, Cell.allows] using ha
    | true =>
      have hm : s.mode = .v86 := by simp [State.mode, hpe, hv]
      simp [State.allowed, hm, accessCell, Cell.allows] at ha

/-- A CR0 with no reserved bit, and with PG only together with PE, keeps a state legal where it may be loaded. -/
theorem State.Legal.with_cr0 {s : State} (h : s.Legal) (ha : s.allowed .control .load = true) {c : Word}
    (hc : c &&& ~~~cr0Mask = 0) (hpg : c.getLsbD 31 = true → c.getLsbD 0 = true) :
    ({ s with cr0 := c } : State).Legal := by
  obtain ⟨hvm, hcpl⟩ := h.of_controlLoad ha
  obtain ⟨⟨hfl, hone, -, hdr6, hdr7⟩, -, hmem⟩ := h
  have hvm' : ({ s with cr0 := c } : State).vm = false := hvm
  have hm : ({ s with cr0 := c } : State).mode ≠ .v86 := by
    unfold State.mode
    rw [hvm']
    split <;> simp
  exact ⟨⟨hfl, hone, hc, hdr6, hdr7⟩, ⟨hpg, fun hv => absurd hv (by simp [hvm']), fun _ => hcpl,
    fun hv => absurd hv hm⟩, hmem⟩

/-- LMSW never clears PE, and touches none of PG and the reserved bits (R142). -/
theorem getLsbD_lmswCr0 (cr0 : Word) (src : Half) :
    (cr0.getLsbD 0 = true → (lmswCr0 cr0 src).getLsbD 0 = true) ∧
      (lmswCr0 cr0 src).getLsbD 31 = cr0.getLsbD 31 := by
  have h0 : (0xF : Word).getLsbD 0 = true := rfl
  have h31 : (0xF : Word).getLsbD 31 = false := rfl
  constructor
  · intro h
    rw [lmswCr0, getLsbD_mergeBits, if_pos h0, BitVec.getLsbD_or, BitVec.getLsbD_and, h]
    exact Bool.or_true _
  · rw [lmswCr0, getLsbD_mergeBits, h31, if_neg Bool.false_ne_true]

theorem State.Legal.lmsw {s : State} (h : s.Legal) (ha : s.allowed .control .load = true) (src : Half) :
    ({ s with cr0 := lmswCr0 s.cr0 src } : State).Legal := by
  obtain ⟨⟨-, -, hcr0, -, -⟩, ⟨hpg, -⟩, -⟩ := id h
  obtain ⟨hpe', hpg'⟩ := getLsbD_lmswCr0 s.cr0 src
  refine h.with_cr0 ha (mergeBits_and_not_eq_zero _ hcr0 (by decide)) fun h31 => ?_
  exact hpe' (hpg (hpg'.symm.trans h31))

theorem State.Legal.writeCr {s u : State} {n : BitVec 3} {v : Word} (h : s.Legal)
    (ha : s.allowed .control .load = true) (hw : writeCr s n v = some (.ok u)) : u.Legal := by
  obtain ⟨hpg, rfl⟩ | rfl | rfl := writeCr_ok hw
  · refine h.with_cr0 ha (and_and_not_eq_zero _ _) ?_
    simp only [BitVec.getLsbD_and, Bool.and_eq_true]
    exact fun h31 => ⟨hpg h31.1, rfl⟩
  · exact h
  · exact h

theorem State.Legal.writeDr {s u : State} {n : BitVec 3} {v : Word} (h : s.Legal) (hw : s.writeDr n v = some u) :
    u.Legal := by
  obtain ⟨⟨hfl, hone, hcr0, hdr6, hdr7⟩, hmode, hmem⟩ := id h
  obtain ⟨d0, d1, d2, d3, rfl⟩ | ⟨-, rfl⟩ | rfl := writeDr_some hw
  · exact h
  · exact ⟨⟨hfl, hone, hcr0, and_and_not_eq_zero _ _, hdr7⟩, hmode, hmem⟩
  · exact ⟨⟨hfl, hone, hcr0, hdr6, and_and_not_eq_zero _ _⟩, hmode, hmem⟩

theorem State.Legal.storePhys {s : State} (h : s.Legal) {ps : List Nat} (hp : ∀ a ∈ ps, a < addressSpace)
    (bs : List Byte) : (s.storePhys ps bs).Legal := by
  obtain ⟨hfix, hmode, hmem, hst⟩ := h
  exact ⟨hfix, hmode, Memory.wf_setBytes _ _ _ hmem hp, storedWf_addAddrs _ _ hst hp⟩

/-! ## Instructions and steps -/

theorem Writes.legal {s u : State} {i : Instr} (hw : Writes s i u) (h : s.Legal) : u.Legal := by
  cases hw with
  | general hu | segment hu | gdtr _ hu | idtr _ hu | ldtr _ hu | tr _ hu =>
    have hl := h.sameButTlb hu
    exact hl
  | store hu hp bs g => exact (h.sameButTlb hu).storePhys hp bs
  | control ha hw => exact h.writeCr ha hw
  | lmsw ha => exact h.lmsw ha _
  | debug _ hw => exact h.writeDr hw
  | test _ hw =>
    rw [writeTr_some hw]
    exact h

theorem Completes.legal {s t : State} {i : Instr} (hc : Completes s i t) (h : s.Legal) : t.Legal := by
  cases hc with
  | retired hw => exact (hw.legal h).retire _
  | popf hu image g =>
    obtain ⟨tlb, draws, rfl⟩ := hu.exists_eq
    exact h.popFlags image s.curCpl
  | iret hu image g f ip =>
    obtain ⟨tlb, draws, rfl⟩ := hu.exists_eq
    obtain ⟨hfix, hmode, hmem, -⟩ := h.popFlags image s.curCpl
    exact ⟨hfix, hmode, hmem, rfl⟩

/-- Every instruction with a next state keeps a legal state legal. -/
theorem State.Legal.exec {s t : State} {i : Instr} (h : s.Legal) (he : exec i s = .next t) : t.Legal := by
  obtain ⟨c, rfl⟩ | hc := exec_next he
  · exact h.takeException c
  · exact hc.legal h

theorem Steps.legal {s t : State} (hs : Steps s t) (h : s.Legal) : t.Legal := by
  cases hs with
  | raised c => exact h.takeException c
  | debugFault hb => exact h.takeDebug hb
  | trapped hf he => exact (h.sameButTlb (fetch_ok hf)).exec he
  | debugTrap hf he hb => exact ((h.sameButTlb (fetch_ok hf)).exec he).takeDebug hb
  | boundary hf he =>
    have hl := (h.sameButTlb (fetch_ok hf)).exec he
    exact hl

/-- Settles O9: whatever a step may leave, each part of it keeps the fixed bits, the mode rules and memory's form. -/
theorem stepKeepsLegal : Obligations.StepKeepsLegal :=
  fun _ _ h hstep => (step_next hstep).legal h

/-- Settles O10: the reset values are closed, so their bits are compared. -/
theorem resetIsLegal : Obligations.ResetIsLegal := ⟨by decide, by decide⟩

end Sys2Proof.Machine
end

section
/-! PROOFS. What unprivileged code cannot change (O43), DR6 over a step (O58), RF and EIP at completion (O46). -/

namespace Sys2Proof.Machine

/-! ## Confinement -/

/-- What unprivileged code keeps: the privileged registers and flags, IF where CPL is above IOPL, and CR2 but for the
address of a page miss. -/
def State.Confined (s t : State) : Prop :=
  s.SamePrivileged t ∧ (s.iopl.toNat < s.cpl.toNat → t.ifl = s.ifl) ∧
    (t.cr2 ≠ s.cr2 → ∃ a, t.trapped = some (.pageMiss a) ∧ t.cr2 = a)

theorem State.SamePrivileged.refl (s : State) : s.SamePrivileged s :=
  ⟨rfl, rfl, rfl, rfl, rfl, rfl, rfl, rfl, rfl, rfl, rfl, rfl, rfl, rfl, rfl, rfl, rfl⟩

theorem State.Confined.refl (s : State) : s.Confined s :=
  ⟨.refl s, fun _ => rfl, fun h => absurd rfl h⟩

/-- Retiring clears RF, which confinement leaves free. -/
theorem State.Confined.retire {s u : State} (h : s.Confined u) (n : Nat) : s.Confined (u.retire n) := by
  unfold State.Confined State.SamePrivileged
  rw [State.retire_vm, State.retire_iopl, State.retire_ifl]
  exact h

/-- Raising an exception changes CR2 only for a page miss, to its address (R208). -/
theorem State.Confined.takeException (s : State) (c : TrapCause) : s.Confined (s.takeException c) := by
  cases c with
  | pageMiss a => exact ⟨.refl s, fun _ => rfl, fun _ => ⟨a, rfl, rfl⟩⟩
  | exc | debugException | externalInterrupt => exact ⟨.refl s, fun _ => rfl, fun h => absurd rfl h⟩

theorem State.curCpl_pm {s : State} (hm : s.mode = .pm) : s.curCpl = s.cpl := by
  simp [State.curCpl, hm]

/-- In PM a load of any register group but the first three needs level 0 (R70). -/
theorem not_allowed_load {s : State} (hm : s.mode = .pm) (hc : s.cpl ≠ 0) {g : RegGroup}
    (hg : g ≠ .general ∧ g ≠ .segment ∧ g ≠ .flags) : s.allowed g .load ≠ true := by
  have hlevel : accessCell g .pm .load = .level0 := by
    cases g <;> simp_all [accessCell]
  rw [State.allowed, hm, hlevel, State.curCpl_pm hm]
  simpa [Cell.allows] using hc

theorem Writes.confined {s u : State} {i : Instr} (hw : Writes s i u) (hm : s.mode = .pm) (hc : s.cpl ≠ 0) :
    s.Confined u := by
  cases hw with
  | general hu | store hu | segment hu =>
    obtain ⟨tlb, draws, rfl⟩ := hu.exists_eq
    exact .refl s
  | gdtr ha | idtr ha | ldtr ha | tr ha | control ha | lmsw ha | debug ha | test ha =>
    exact absurd ha (not_allowed_load hm hc (by decide))

/-- What POPF and IRET load into EFLAGS at a level other than 0 is confined (R121). -/
theorem State.Confined.popFlags {s : State} (hm : s.mode = .pm) (hc : s.cpl ≠ 0) (image : Word) :
    s.Confined { s with eflags := Machine.popFlags s.eflags image s.curCpl } := by
  rw [State.curCpl_pm hm]
  have hvm := getLsbD_popFlags_vm s.eflags image s.cpl
  have hiopl := extractLsb'_popFlags_iopl s.eflags image s.cpl hc
  refine ⟨⟨rfl, rfl, rfl, rfl, rfl, rfl, rfl, rfl, rfl, rfl, rfl, rfl, rfl, rfl, rfl, hvm, hiopl⟩, fun habove => ?_,
    fun h => absurd rfl h⟩
  exact getLsbD_popFlags_if _ _ _ (Nat.not_le.mpr habove)

theorem Completes.confined {s t : State} {i : Instr} (h : Completes s i t) (hm : s.mode = .pm) (hc : s.cpl ≠ 0) :
    s.Confined t := by
  cases h with
  | retired hw => exact (hw.confined hm hc).retire _
  | popf hu image | iret hu image =>
    obtain ⟨tlb, draws, rfl⟩ := hu.exists_eq
    have hp := State.Confined.popFlags hm hc image
    exact hp

/-- Settles O43: an instruction raises, which touches CR2 alone, or completes, and then every privileged register is
behind a denied load. -/
theorem unprivilegedCodeIsConfined : Obligations.UnprivilegedCodeIsConfined := by
  intro s t i hm hc he
  obtain ⟨c, rfl⟩ | h := exec_next he
  · exact State.Confined.takeException s c
  · exact h.confined hm hc

/-! ## DR6 -/

/-- Only a load of DR6 changes it (R181). -/
theorem writeDr_dr6 {s t : State} {n : BitVec 3} {v : Word} (h : s.writeDr n v = some t) (hn : n ≠ 6) :
    t.dr6 = s.dr6 := by
  obtain ⟨d0, d1, d2, d3, rfl⟩ | ⟨h6, -⟩ | rfl := writeDr_some h
  · rfl
  · exact absurd h6 hn
  · rfl

theorem writeCr_dr6 {s t : State} {n : BitVec 3} {v : Word} (h : writeCr s n v = some (.ok t)) : t.dr6 = s.dr6 := by
  obtain ⟨-, rfl⟩ | rfl | rfl := writeCr_ok h <;> rfl

theorem Writes.dr6 {s u : State} {i : Instr} (hw : Writes s i u) (hi : ∀ r, i ≠ .movDrR32 6 r) : u.dr6 = s.dr6 := by
  cases hw with
  | general hu | store hu | segment hu | gdtr _ hu | idtr _ hu | ldtr _ hu | tr _ hu =>
    obtain ⟨tlb, draws, rfl⟩ := hu.exists_eq
    rfl
  | control _ hw => exact writeCr_dr6 hw
  | lmsw => rfl
  | @debug n r _ _ hw => exact writeDr_dr6 hw fun hn => hi r (hn ▸ rfl)
  | test _ hw => rw [writeTr_some hw]

/-- An instruction other than a load of DR6 keeps DR6. -/
theorem exec_dr6 {s t : State} {i : Instr} (he : exec i s = .next t) (hi : ∀ r, i ≠ .movDrR32 6 r) :
    t.dr6 = s.dr6 := by
  obtain ⟨c, rfl⟩ | h := exec_next he
  · rw [State.takeException_eq]
  · cases h with
    | retired hw => exact hw.dr6 hi
    | popf hu | iret hu =>
      obtain ⟨tlb, draws, rfl⟩ := hu.exists_eq
      rfl

/-- A debug exception clears no bit of DR6 (R67). -/
theorem getLsbD_takeDebug_dr6 (s : State) (bits : Word) (j : Nat) (h : s.dr6.getLsbD j = true) :
    (s.takeDebug bits).dr6.getLsbD j = true := by
  obtain ⟨extra, -, hd⟩ := reportDebug_dr6 s bits
  rw [takeDebug_eq]
  show (s.reportDebug bits).dr6.getLsbD j = true
  rw [hd, BitVec.getLsbD_or, BitVec.getLsbD_or, h]
  rfl

/-- The fetch and an instruction other than a load of DR6 keep DR6. -/
theorem fetch_exec_dr6 {s s1 t : State} {i : Instr} (hf : fetch s = .ok (i, s1)) (he : exec i s1 = .next t)
    (hi : ∀ r, i ≠ .movDrR32 6 r) : t.dr6 = s.dr6 := by
  obtain ⟨tlb, draws, rfl⟩ := (fetch_ok hf).exists_eq
  have hd := exec_dr6 he hi
  exact hd

/-- Settles O58: a step writes DR6 by a debug report, which only sets bits, or by the instruction it fetched. -/
theorem dr6BitsStay : Obligations.Dr6BitsStay := by
  intro s t hstep hnot j _ hj
  cases step_next hstep with
  | raised c =>
    rw [State.takeException_eq]
    exact hj
  | debugFault => exact getLsbD_takeDebug_dr6 s _ j hj
  | trapped hf he =>
    rw [fetch_exec_dr6 hf he (hnot _ _ hf)]
    exact hj
  | debugTrap hf he =>
    refine getLsbD_takeDebug_dr6 _ _ j ?_
    rw [fetch_exec_dr6 hf he (hnot _ _ hf)]
    exact hj
  | boundary hf he =>
    rw [State.nextBoundary_dr6, fetch_exec_dr6 hf he (hnot _ _ hf)]
    exact hj

/-! ## RF and EIP at completion -/

theorem writeCr_eip {s t : State} {n : BitVec 3} {v : Word} (h : writeCr s n v = some (.ok t)) : t.eip = s.eip := by
  obtain ⟨-, rfl⟩ | rfl | rfl := writeCr_ok h <;> rfl

theorem writeDr_eip {s t : State} {n : BitVec 3} {v : Word} (h : s.writeDr n v = some t) : t.eip = s.eip := by
  obtain ⟨d0, d1, d2, d3, rfl⟩ | ⟨-, rfl⟩ | rfl := writeDr_some h <;> rfl

/-- EIP moves at retirement only. -/
theorem Writes.eip {s u : State} {i : Instr} (hw : Writes s i u) : u.eip = s.eip := by
  cases hw with
  | general hu | store hu | segment hu | gdtr _ hu | idtr _ hu | ldtr _ hu | tr _ hu =>
    obtain ⟨tlb, draws, rfl⟩ := hu.exists_eq
    rfl
  | control _ hw => exact writeCr_eip hw
  | lmsw => rfl
  | debug _ hw => exact writeDr_eip hw
  | test _ hw => rw [writeTr_some hw]

/-- Settles O46: what does not raise and is neither POPF nor IRET retires. -/
theorem completionClearsRfAndAdvances : Obligations.CompletionClearsRfAndAdvances := by
  intro s t i _ he ht hpopf hiret
  obtain hraise | h := exec_next he
  · exact absurd hraise (not_raises_of_untrapped ht)
  · cases h with
    | retired hw => exact ⟨State.retire_rf _ _, by rw [State.retire_eip, hw.eip]⟩
    | popf => exact absurd rfl hpopf
    | iret => exact absurd rfl hiret

end Sys2Proof.Machine
end

section
/-! PROOFS. Register parts (O12) and the flags of an addition and a subtraction (O13, O14). -/

namespace Sys2Proof.Machine

/-! ## Parts of a register as numbers -/

/-- An appended value as a number: the high part counts in units of the low part's size. -/
theorem toNat_append_eq_add {m n : Nat} (a : BitVec m) (b : BitVec n) :
    (a ++ b).toNat = a.toNat * 2 ^ n + b.toNat := by
  rw [BitVec.toNat_append, ← Nat.shiftLeft_add_eq_or_of_lt b.isLt, Nat.shiftLeft_eq]

theorem toNat_extractLsb'_eq {n : Nat} (x : BitVec n) (start len : Nat) :
    (x.extractLsb' start len).toNat = x.toNat / 2 ^ start % 2 ^ len := by
  rw [BitVec.extractLsb'_toNat, Nat.shiftRight_eq_div_pow]

theorem State.toNat_r16 (s : State) (r : Reg) : (s.r16 r).toNat = (s.r32 r).toNat % 65536 := by
  simp [State.r16]

theorem toNat_withLow16 (old : Word) (v : Half) : (withLow16 old v).toNat = old.toNat / 65536 * 65536 + v.toNat := by
  have h := old.isLt
  simp only [withLow16, toNat_append_eq_add, toNat_extractLsb'_eq]
  omega

/-- Where an 8-bit part begins in its register: bit 8 or bit 0 (R12). -/
theorem State.toNat_r8 (s : State) (r : Reg8) :
    (s.r8 r).toNat = (s.r32 (parentOf r)).toNat / (if isHighByte r then 256 else 1) % 256 := by
  unfold State.r8
  split <;> exact toNat_extractLsb'_eq _ _ _

theorem toNat_withByte (old : Word) (high : Bool) (v : Byte) :
    (withByte old high v).toNat =
      if high then old.toNat / 65536 * 65536 + v.toNat * 256 + old.toNat % 256
      else old.toNat / 256 * 256 + v.toNat := by
  have h := old.isLt
  unfold withByte
  split <;> simp only [toNat_append_eq_add, toNat_extractLsb'_eq] <;> omega

/-- An 8-bit part is determined by its register and its half. -/
theorem Reg8.eq_of_parentOf_eq {q r : Reg8} (hp : parentOf q = parentOf r) (hh : isHighByte q = isHighByte r) :
    q = r := by
  cases q <;> cases r <;> simp_all [parentOf, isHighByte]

theorem State.r32_setR16_other (s : State) {r q : Reg} (v : Half) (h : q ≠ r) : (s.setR16 r v).r32 q = s.r32 q :=
  s.r32_setR32_other r q _ h

theorem State.r32_setR8_parent (s : State) (r : Reg8) (v : Byte) :
    (s.setR8 r v).r32 (parentOf r) = withByte (s.r32 (parentOf r)) (isHighByte r) v :=
  s.r32_setR32_same _ _

theorem State.r32_setR8_other (s : State) (r : Reg8) (v : Byte) {q : Reg} (h : q ≠ parentOf r) :
    (s.setR8 r v).r32 q = s.r32 q :=
  s.r32_setR32_other _ q _ h

theorem State.r8_setR8_same (s : State) (r : Reg8) (v : Byte) : (s.setR8 r v).r8 r = v := by
  refine BitVec.eq_of_toNat_eq ?_
  have hv := v.isLt
  rw [State.toNat_r8, State.r32_setR8_parent, toNat_withByte]
  split <;> omega

/-- A write of one 8-bit part leaves the others, the other half of its register among them (R12). -/
theorem State.r8_setR8_other (s : State) {r q : Reg8} (v : Byte) (h : q ≠ r) : (s.setR8 r v).r8 q = s.r8 q := by
  refine BitVec.eq_of_toNat_eq ?_
  rw [State.toNat_r8, State.toNat_r8]
  by_cases hp : parentOf q = parentOf r
  · have hv := v.isLt
    have hh : isHighByte q ≠ isHighByte r := fun hh => h (Reg8.eq_of_parentOf_eq hp hh)
    rw [hp, State.r32_setR8_parent, toNat_withByte]
    cases hq : isHighByte q <;> cases hr : isHighByte r <;> simp_all <;> omega
  · rw [State.r32_setR8_other _ _ _ hp]

/-- A write of an 8-bit part keeps the upper half of every register (R12). -/
theorem State.upper_setR8 (s : State) (r : Reg8) (v : Byte) (q : Reg) :
    ((s.setR8 r v).r32 q).toNat / 65536 = (s.r32 q).toNat / 65536 := by
  by_cases hq : q = parentOf r
  · subst hq
    have hv := v.isLt
    rw [State.r32_setR8_parent, toNat_withByte]
    split <;> omega
  · rw [State.r32_setR8_other _ _ _ hq]

/-- Settles O12: every part of a register is a quotient and a remainder of its number. -/
theorem aliasesAreRegisterParts : Obligations.AliasesAreRegisterParts := by
  refine ⟨State.toNat_r16, fun s => ?_, fun s r v => ⟨?_, s.r16_setR16_same r v, fun q h => s.r32_setR16_other v h, rfl⟩,
    fun s r v => ⟨s.r8_setR8_same r v, fun q h => s.r8_setR8_other v h, s.upper_setR8 r v,
      fun q h => s.r32_setR8_other r v h, rfl⟩⟩
  · simp [State.toNat_r8, parentOf, isHighByte]
  · rw [State.setR16, State.r32_setR32_same, toNat_withLow16]

/-! ## Flags of an addition and a subtraction -/

/-- PF is 1 for an even number of ones in the low byte (R33). -/
theorem parityEven_iff (low : Byte) :
    parityEven low = true ↔ (List.range 8).countP (fun i => low.getLsbD i) % 2 = 0 := by
  revert low
  decide

theorem parityEven_setWidth_iff {n : Nat} (r : BitVec n) :
    parityEven (r.setWidth 8) = true ↔ (List.range 8).countP (fun i => r.getLsbD i) % 2 = 0 := by
  have hlow : (List.range 8).countP (fun i => (r.setWidth 8).getLsbD i) =
      (List.range 8).countP (fun i => r.getLsbD i) := by
    refine List.countP_congr fun i hi => ?_
    simp [List.mem_range.mp hi]
  rw [parityEven_iff, hlow]

theorem msb_iff_toNat_ge {n : Nat} (r : BitVec n) : r.msb = true ↔ r.toNat ≥ 2 ^ (n - 1) := by
  rw [BitVec.msb_eq_decide, decide_eq_true_eq]

theorem decide_eq_zero_iff_toNat {n : Nat} (r : BitVec n) : decide (r = 0) = true ↔ r.toNat = 0 := by
  rw [decide_eq_true_eq, BitVec.toNat_eq]
  rfl

/-- Settles O13: each flag is its function of the result or of the operands' low digits. -/
theorem additionFlags : Obligations.AdditionFlags :=
  fun _ _ _ _ _ =>
    ⟨parityEven_setWidth_iff _, parityEven_setWidth_iff _, decide_eq_true_iff, decide_eq_true_iff,
      decide_eq_zero_iff_toNat _, decide_eq_zero_iff_toNat _, msb_iff_toNat_ge _, msb_iff_toNat_ge _⟩

/-- A carry or borrow in is 0 or 1 at every width from 1 bit on. -/
theorem toNat_ofNat_carry {n : Nat} (hn : 0 < n) (c : Bool) : (BitVec.ofNat n c.toNat).toNat = c.toNat := by
  have hc : c.toNat < 2 ^ n := lt_of_lt_of_le (Bool.toNat_lt c) (Nat.le_self_pow hn.ne' 2)
  rw [BitVec.toNat_ofNat, Nat.mod_eq_of_lt hc]

theorem toNat_addResult {n : Nat} (hn : 0 < n) (a b : BitVec n) (c : Bool) :
    (addResult a b c).toNat = (a.toNat + b.toNat + c.toNat) % 2 ^ n := by
  rw [addResult, BitVec.toNat_add, BitVec.toNat_add, toNat_ofNat_carry hn, Nat.mod_add_mod]

/-- A difference as a number, modulo 2 ^ n (R34). -/
theorem toNat_sub_emod {n : Nat} (a b : BitVec n) : ((a - b).toNat : Int) = ((a.toNat : Int) - b.toNat) % 2 ^ n := by
  have hb := b.isLt
  rw [BitVec.toNat_sub, Int.natCast_emod, Nat.cast_add, Nat.cast_sub hb.le, Nat.cast_pow]
  have h : ((2 : ℕ) ^ n : Int) - b.toNat + a.toNat = (a.toNat - b.toNat) + 2 ^ n := by push_cast; ring
  rw [h]
  exact Int.add_emod_right _ _

theorem toNat_subResult {n : Nat} (hn : 0 < n) (a b : BitVec n) (c : Bool) :
    ((subResult a b c).toNat : Int) = ((a.toNat : Int) - b.toNat - c.toNat) % 2 ^ n := by
  rw [subResult, toNat_sub_emod, toNat_sub_emod, toNat_ofNat_carry hn, Int.emod_sub_emod]

/-- Signed overflow of a sum is that the result is not the exact sum. -/
theorem saddOverflow_iff {n : Nat} (a b : BitVec n) :
    a.saddOverflow b = true ↔ a.toInt + b.toInt ≠ (a + b).toInt := by
  constructor
  · intro h
    have hlt := (a + b).toInt_lt
    have hle := (a + b).le_toInt
    simp only [BitVec.saddOverflow, Bool.or_eq_true, decide_eq_true_eq] at h
    omega
  · intro h
    by_contra hno
    exact h (BitVec.toInt_add_of_not_saddOverflow hno).symm

/-- Signed overflow of a difference is that the result is not the exact difference. -/
theorem ssubOverflow_iff {n : Nat} (a b : BitVec n) :
    a.ssubOverflow b = true ↔ a.toInt - b.toInt ≠ (a - b).toInt := by
  constructor
  · intro h
    have hlt := (a - b).toInt_lt
    have hle := (a - b).le_toInt
    simp only [BitVec.ssubOverflow, Bool.or_eq_true, decide_eq_true_eq] at h
    omega
  · intro h
    by_contra hno
    exact h (BitVec.toInt_sub_of_not_ssubOverflow hno).symm

theorem addFlags_of_eq_saddOverflow {n : Nat} (a b : BitVec n) : (addFlags a b false).of = a.saddOverflow b := by
  rw [BitVec.saddOverflow_eq]
  simp [addFlags, addResult]

theorem subFlags_of_eq_ssubOverflow {n : Nat} (a b : BitVec n) : (subFlags a b false).of = a.ssubOverflow b := by
  rw [BitVec.ssubOverflow_eq]
  simp only [subFlags, subResult, Bool.toNat_false, BitVec.ofNat_eq_ofNat, BitVec.sub_zero]
  cases a.msb <;> cases b.msb <;> simp

/-- Settles O14: results modulo 2 ^ n, the carry and the borrow by comparison, OF as the library's signed overflow. -/
theorem overflowIsSignedOverflow : Obligations.OverflowIsSignedOverflow := by
  intro n a b c hn
  refine ⟨toNat_addResult hn a b c, toNat_subResult hn a b c, decide_eq_true_iff, decide_eq_true_iff, ?_, ?_, ?_, ?_⟩
  · simp only [← BitVec.msb_eq_getLsbD_last]
    simp [addFlags]
  · simp only [← BitVec.msb_eq_getLsbD_last]
    simp [subFlags]
  · rw [addFlags_of_eq_saddOverflow, saddOverflow_iff]
    simp [addResult]
  · rw [subFlags_of_eq_ssubOverflow, ssubOverflow_iff]
    simp [subResult]

end Sys2Proof.Machine
end

section
/-! PROOFS. RF after POPF and IRET (O47), PUSHF's image (O17), denied I/O (O26), reserved numbers (O42) and data
breakpoints (O57). -/

namespace Sys2Proof.Machine

/-! ## Accesses that hit given bytes -/

/-- A read through mapped addresses gives the bytes memory holds there (R86, R87). -/
theorem memRead_of_maps {s s1 : State} {n : SegName} {off : Word} {count : Nat} {ps : List Nat} {bs : List Byte}
    (hm : s.Maps .read n off count ps s1) (hb : s.HoldsBytes ps bs) : memRead s n off count = .ok (bs, s1) := by
  obtain ⟨hbound, hattr, htr, hinst⟩ := hm
  have hcheck := (checkSeg_eq_ok s (s.seg n) off.toNat count .read ()).mpr ⟨hbound, hattr⟩
  have hread : readPhysList s1 ps = .ok bs := by
    obtain ⟨tlb, draws, rfl⟩ := (translateRange_ok htr).1.exists_eq
    exact readPhysList_of_holds hinst hb
  simp only [memRead, hcheck, htr, hread, bind_ok]

/-- A pop from mapped addresses gives the value memory holds there (R120). -/
theorem pop32_of_maps {s s1 : State} {ps : List Nat} {v : Word} (hm : s.Maps .read .ss (s.r32 .esp) 4 ps s1)
    (hb : s.HoldsBytes ps (toBytesLE v.toNat 4)) : pop32 s = .ok (v, s1.setR32 .esp (s.r32 .esp + 4)) := by
  have hv : BitVec.ofNat 32 (fromBytesLE (toBytesLE v.toNat 4)) = v := by
    have hlt : v.toNat % 256 ^ 4 = v.toNat := Nat.mod_eq_of_lt v.isLt
    rw [fromBytesLE_toBytesLE, hlt, BitVec.ofNat_toNat, BitVec.setWidth_eq]
  simp only [pop32, memRead_of_maps hm hb, bind_ok, hv]

/-- An access does not look at the general registers. -/
theorem State.Maps.with_gpr {s s1 : State} {k : AccessKind} {n : SegName} {off : Word} {count : Nat} {ps : List Nat}
    (hm : s.Maps k n off count ps s1) (g : Gprs) :
    ({ s with gpr := g } : State).Maps k n off count ps { s1 with gpr := g } := by
  obtain ⟨hbound, hattr, htr, hinst⟩ := hm
  refine ⟨hbound, hattr, ?_, hinst⟩
  have h := translateRange_gpr count s k (linearAddr (s.seg n) off) g
  rw [htr] at h
  exact h

/-- With paging off a pop changes ESP alone (R120). -/
theorem pop32_off {s t : State} {v : Word} (hoff : s.pagingOn = false) (h : pop32 s = .ok (v, t)) :
    t = s.setR32 .esp (s.r32 .esp + 4) := by
  simp only [pop32, memRead, translateRange_off _ _ _ _ hoff, bind_ok, bind_eq_ok, Prod.exists] at h
  obtain ⟨bs, s1, ⟨_, -, bs', -, hs⟩, ht⟩ := h
  cases hs
  cases ht
  rfl

/-- Two pops with paging off move ESP by 8 and write no other register (R120). -/
theorem pop32_twice_off {s t u : State} {v w : Word} (hoff : s.pagingOn = false) (h1 : pop32 s = .ok (v, t))
    (h2 : pop32 t = .ok (w, u)) : (∃ g, u = { s with gpr := g }) ∧ u.r32 .esp = s.r32 .esp + 8 := by
  cases pop32_off hoff h1
  have hu := pop32_off (s := s.setR32 .esp (s.r32 .esp + 4)) hoff h2
  refine ⟨⟨_, hu⟩, ?_⟩
  rw [hu, State.r32_setR32_same, State.r32_setR32_same, BitVec.add_assoc]
  rfl

/-! ## RF after POPF and IRET -/

/-- An instruction that leaves no trap cause answered. -/
theorem conclude_untrapped {s t : State} {r : Op State} (h : conclude s r = .next t) (ht : t.trapped = none) :
    r = .ok t := by
  obtain hr | ⟨c, -, hc⟩ := (conclude_next_iff s t r).mp h
  · exact hr
  · exact absurd ⟨c, hc⟩ (not_raises_of_untrapped ht)

/-- A completed POPF loads EFLAGS from the value it popped (R121). -/
theorem exec_popf_completed {s t : State} (h : exec .popf s = .next t) (ht : t.trapped = none) :
    ∃ image s1, pop32 s = .ok (image, s1) ∧ t.eflags = popFlags s.eflags image s.curCpl := by
  have hok := conclude_untrapped h ht
  simp only [bind_eq_ok, Prod.exists] at hok
  obtain ⟨_, -, image, s1, hpop, heq⟩ := hok
  cases heq
  exact ⟨image, s1, hpop, rfl⟩

/-- A completed IRET loads EFLAGS from the third value it popped (R122). -/
theorem exec_iret_completed {s t : State} (h : exec .iret s = .next t) (ht : t.trapped = none) :
    ∃ newEip s1 newCs s2 image s3, pop32 s = .ok (newEip, s1) ∧ pop32 s1 = .ok (newCs, s2) ∧
      pop32 s2 = .ok (image, s3) ∧ t.eflags = popFlags s.eflags image s.curCpl := by
  have hok := conclude_untrapped h ht
  split at hok
  · cases hok
  · split at hok
    · cases hok
    · simp only [returnFrame, bind_eq_ok, Prod.exists] at hok
      obtain ⟨newEip, s1, h1, newCs, s2, h2, image, s3, h3, hok⟩ := hok
      refine ⟨newEip, s1, newCs, s2, image, s3, h1, h2, h3, ?_⟩
      split at hok
      · cases hok
      · simp only [bind_eq_ok, Prod.exists] at hok
        obtain ⟨cs, c, s4, -, hok⟩ := hok
        split at hok
        · cases hok
        · cases hok
          rfl

theorem State.rf_of_popFlags {s t : State} {image : Word} (h : t.eflags = popFlags s.eflags image s.curCpl) :
    t.rf = image.getLsbD 16 := by
  rw [State.rf, h, getLsbD_popFlags_rf]

/-- Settles O47: the mapped bytes are those that POPF's pop, and IRET's third pop, reads. -/
theorem imageDecidesRf : Obligations.ImageDecidesRf := by
  intro s t s1 ps image _
  constructor
  · intro hm hb he ht
    obtain ⟨popped, s2, hpop, hfl⟩ := exec_popf_completed he ht
    rw [pop32_of_maps hm hb] at hpop
    cases hpop
    exact State.rf_of_popFlags hfl
  · intro hoff hm hb he ht
    obtain ⟨newEip, u1, newCs, u2, popped, u3, h1, h2, h3, hfl⟩ := exec_iret_completed he ht
    obtain ⟨⟨g, rfl⟩, hesp⟩ := pop32_twice_off hoff h1 h2
    have hm' := hm.with_gpr g
    rw [← hesp] at hm'
    rw [pop32_of_maps hm' hb] at h3
    cases h3
    exact State.rf_of_popFlags hfl

/-! ## The image PUSHF stores -/

/-- Each bit of the image (R120). -/
theorem getLsbD_pushfImage (fl : Word) (rf : BitVec 1) {i : Nat} (hi : i < 32) :
    (pushfImage fl rf).getLsbD i =
      ((fl.getLsbD i && eflagsMask.getLsbD i && !decide (i = 17) && !decide (i = 16)) || decide (i = 1) ||
        (decide (i = 16) && fl.getLsbD 16 && rf.getLsbD 0)) := by
  have hvm : vmMask = BitVec.twoPow 32 17 := rfl
  have hrf : rfMask = BitVec.twoPow 32 16 := rfl
  have hone : (2 : Word) = BitVec.twoPow 32 1 := rfl
  have hbase : ((fl &&& eflagsMask &&& ~~~vmMask &&& ~~~rfMask) ||| 2).getLsbD i =
      ((fl.getLsbD i && eflagsMask.getLsbD i && !decide (i = 17) && !decide (i = 16)) || decide (i = 1)) := by
    simp only [hvm, hrf, hone, BitVec.getLsbD_or, BitVec.getLsbD_and, BitVec.getLsbD_not, BitVec.getLsbD_twoPow, hi,
      decide_true, Bool.true_and, eq_comm (b := i)]
    rfl
  unfold pushfImage
  dsimp only
  split
  · rename_i h
    obtain ⟨h16, hr⟩ := Bool.and_eq_true_iff.mp h
    rw [BitVec.getLsbD_or, hbase, h16, hr, hrf, BitVec.getLsbD_twoPow]
    simp [hi, eq_comm]
  · rename_i h
    rw [hbase, Bool.and_assoc (decide (i = 16)), Bool.eq_false_iff.mpr h]
    simp

/-- PUSHF stores an image of EFLAGS (R120). -/
theorem pushfValue_eq (s : State) : ∃ rf, (pushfValue s).1 = pushfImage s.eflags rf := by
  unfold pushfValue
  split
  · exact ⟨_, rfl⟩
  · exact ⟨0, rfl⟩

/-- Settles O17: each clause reads one group of the image's bits. -/
theorem pushfImageBits : Obligations.PushfImageBits := by
  intro s
  obtain ⟨rf, hv⟩ := pushfValue_eq s
  rw [hv]
  refine ⟨?_, ?_, fun hrf => ?_, fun i hi hz => ?_, fun i hi => ?_⟩
  · rw [getLsbD_pushfImage _ _ (by decide)]
    simp
  · rw [getLsbD_pushfImage _ _ (by decide)]
    simp
  · have h16 : s.eflags.getLsbD 16 = false := hrf
    rw [getLsbD_pushfImage _ _ (by decide), h16]
    simp
  · have hmask : ∀ j < 32, j ∈ [3, 5, 15] ∨ 18 ≤ j → eflagsMask.getLsbD j = false ∧ j ≠ 1 ∧ j ≠ 16 := by decide
    obtain ⟨hm, h1, h16⟩ := hmask i hi hz
    rw [getLsbD_pushfImage _ _ hi, hm]
    simp [h1, h16]
  · have hmask : ∀ j ∈ [0, 2, 4, 6, 7, 8, 9, 10, 11, 12, 13, 14],
        j < 32 ∧ eflagsMask.getLsbD j = true ∧ j ≠ 1 ∧ j ≠ 16 ∧ j ≠ 17 := by decide
    obtain ⟨h32, hm, h1, h16, h17⟩ := hmask i hi
    rw [getLsbD_pushfImage _ _ h32, hm]
    simp [h1, h16, h17]

/-! ## Denied I/O -/

theorem requireIo_denied {s : State} (h : ¬ s.IoAllowed) : requireIo s = .error (.raise (.exc 13)) := if_neg h

/-- A check that raises ends the instruction. -/
theorem conclude_check_raised {α : Type} {s : State} {check : Op α} {c : TrapCause} (f : α → Op State)
    (h : check = .error (.raise c)) : conclude s (check >>= f) = .next (s.takeException c) := by
  rw [h]
  rfl

/-- Settles O26: each I/O instruction begins with the check that is denied. -/
theorem ioTrapsAboveIopl : Obligations.IoTrapsAboveIopl := by
  intro s port h i hi
  have hio := requireIo_denied h
  simp only [List.mem_cons, List.not_mem_nil, or_false] at hi
  rcases hi with rfl | rfl | rfl | rfl | rfl | rfl | rfl | rfl <;> exact conclude_check_raised _ hio

/-! ## Reserved register numbers -/

/-- The control register numbers that hold no state (R48, R108 b). -/
theorem crNumber_reserved : ∀ n : BitVec 3, crNumberOk n = false → n = 1 ∨ n = 4 ∨ n = 5 ∨ n = 6 ∨ n = 7 := by decide

/-- The debug register numbers that hold no state (R68). -/
theorem drNumber_reserved : ∀ n : BitVec 3, drNumberOk n = false → n = 4 ∨ n = 5 := by decide

/-- The test register numbers that hold no state (R69). -/
theorem trNumber_reserved :
    ∀ n : BitVec 3, trNumberOk n = false → n = 0 ∨ n = 1 ∨ n = 2 ∨ n = 3 ∨ n = 4 ∨ n = 5 := by decide

/-- The numbers that name no segment register (R104). -/
theorem segNumber_reserved : ∀ n : BitVec 3, segNumberOk n = false → n = 6 ∨ n = 7 := by decide

/-- The segment numbers that MOV may not load: CS and those that name none (R108 c). -/
theorem segLoad_reserved : ∀ n : BitVec 3, segLoadOk n = false → n = 1 ∨ n = 6 ∨ n = 7 := by decide

/-- Settles O42: for each form the reserved numbers are listed, and its meaning refuses each one. -/
theorem reservedNumbersRefused : Obligations.ReservedNumbersRefused := by
  intro s i h
  cases i with
  | movR32Cr rd n => rcases crNumber_reserved n h with rfl | rfl | rfl | rfl | rfl <;> rfl
  | movCrR32 n rs => rcases crNumber_reserved n h with rfl | rfl | rfl | rfl | rfl <;> rfl
  | movR32Dr rd n => rcases drNumber_reserved n h with rfl | rfl <;> rfl
  | movDrR32 n rs => rcases drNumber_reserved n h with rfl | rfl <;> rfl
  | movR32Tr rd n => rcases trNumber_reserved n h with rfl | rfl | rfl | rfl | rfl | rfl <;> rfl
  | movTrR32 n rs => rcases trNumber_reserved n h with rfl | rfl | rfl | rfl | rfl | rfl <;> rfl
  | movR16Seg rd n => rcases segNumber_reserved n h with rfl | rfl <;> rfl
  | movSegR16 n rs => rcases segLoad_reserved n h with rfl | rfl | rfl <;> rfl
  | _ => cases h

/-! ## Data breakpoints -/

/-- Two ranges share a byte exactly when a byte of one is a byte of the other, modulo 2 ^ 32 (R206). -/
theorem shareByte_iff (a : Word) (m : Nat) (d : Word) (l : Nat) :
    shareByte a m d l = true ↔ ∃ i < m, ∃ j < l, a + BitVec.ofNat 32 i = d + BitVec.ofNat 32 j := by
  simp only [shareByte, List.any_eq_true, List.mem_range, decide_eq_true_eq]
  refine exists_congr fun i => and_congr_right fun _ => ⟨fun h => ⟨_, h, ?_⟩, ?_⟩
  · rw [BitVec.ofNat_toNat, BitVec.setWidth_eq, BitVec.add_comm d, BitVec.sub_add_cancel]
  · rintro ⟨j, hj, heq⟩
    rw [heq, BitVec.add_comm d, BitVec.add_sub_cancel, BitVec.toNat_ofNat]
    exact lt_of_le_of_lt (Nat.mod_le _ _) hj

/-- A defined LEN code stands for one length, that of R58. -/
theorem lenBytes_mem_iff {c : BitVec 2} (hc : c ≠ 2) (len : Nat) :
    (c, len) ∈ [((0 : BitVec 2), 1), (1, 2), (3, 4)] ↔ len = lenBytes c := by
  have hcases : ∀ c : BitVec 2, c ≠ 2 → c = 0 ∨ c = 1 ∨ c = 3 := by decide
  rcases hcases c hc with rfl | rfl | rfl <;> simp [lenBytes]

/-- A breakpoint in a defined configuration has not LEN 10 (R58). -/
theorem State.breakLenCode_ne_two {s : State} {n : Nat} (h : s.breakUndefined n = false) : s.breakLenCode n ≠ 2 := by
  intro h2
  simp [State.breakUndefined, h2] at h

/-- The kinds of access that R/W 01 and R/W 11 report (R57). -/
theorem dataKinds_iff (w : BitVec 2) (k : AccessKind) :
    (((w == 1 && k == .write) || (w == 3 && (k == .read || k == .write))) = true) ↔
      (w = 1 ∧ k = .write) ∨ (w = 3 ∧ k ≠ .execute) := by
  cases k <;> simp

theorem State.dataCond_iff {s : State} {n : Nat} (x : DataAccess) (h : s.breakUndefined n = false) :
    s.dataCond n x = true ↔
      ((s.breakKind n = 1 ∧ x.kind = .write) ∨ (s.breakKind n = 3 ∧ x.kind ≠ .execute)) ∧
      ∃ len, (s.breakLenCode n, len) ∈ [((0 : BitVec 2), 1), (1, 2), (3, 4)] ∧ ∃ i < x.size, ∃ j < len,
        x.addr + BitVec.ofNat 32 i = s.breakAddr n + BitVec.ofNat 32 j := by
  simp only [lenBytes_mem_iff (State.breakLenCode_ne_two h), exists_eq_left]
  rw [State.dataCond, h, Bool.not_false, Bool.true_and, Bool.and_eq_true, dataKinds_iff, shareByte_iff]

/-- Settles O57: the condition is one of kind and one of shared bytes; the accesses are listed by instruction. -/
theorem dataConditionByKindAndRange : Obligations.DataConditionByKindAndRange := by
  refine ⟨fun s n x h => State.dataCond_iff x h, fun s d => ⟨rfl, rfl, rfl, ?_, ?_⟩, ?_⟩
  · simp [dataAccesses, linearAddr]
  · simp [dataAccesses, linearAddr]
  · intro s i hpushf hpopf hiret htable
    cases i with
    | pushf => exact absurd rfl hpushf
    | popf => exact absurd rfl hpopf
    | iret => exact absurd rfl hiret
    | lgdt d => exact absurd rfl (htable d).1
    | lidt d => exact absurd rfl (htable d).2.1
    | sgdt d => exact absurd rfl (htable d).2.2.1
    | sidt d => exact absurd rfl (htable d).2.2.2
    | _ => rfl

end Sys2Proof.Machine
end

section
/-! PROOFS. What an access answers where its addresses are mapped: the image PUSHF stores (O16), IRET in real address
mode (O20), SGDT and SIDT (O35), and a pop after a push (O49). -/

namespace Sys2Proof.Machine

/-! ## Registers -/

@[simp] theorem Gprs.set_set_same (g : Gprs) (r : Reg) (v w : Word) : (g.set r v).set r w = g.set r w := by
  cases r <;> rfl

theorem Gprs.set_get_same (g : Gprs) (r : Reg) : g.set r (g.get r) = g := by cases r <;> rfl

/-- A register written with its own value leaves the state as it was. -/
theorem State.setR32_r32 (s : State) (r : Reg) : s.setR32 r (s.r32 r) = s := by
  rw [State.setR32, State.r32, Gprs.set_get_same]

theorem State.SameButTlb.r32 {s u : State} (h : s.SameButTlb u) (r : Reg) : u.r32 r = s.r32 r := by
  rw [h]
  rfl

/-- A 32-bit value survives the way through its four bytes (R86). -/
theorem ofNat_fromBytesLE_toBytesLE (v : Word) : BitVec.ofNat 32 (fromBytesLE (toBytesLE v.toNat 4)) = v := by
  have hlt : v.toNat % 256 ^ 4 = v.toNat := Nat.mod_eq_of_lt v.isLt
  rw [fromBytesLE_toBytesLE, hlt, BitVec.ofNat_toNat, BitVec.setWidth_eq]

/-! ## Writes to mapped addresses -/

theorem State.Maps.same {s s1 : State} {k : AccessKind} {n : SegName} {off : Word} {count : Nat} {ps : List Nat}
    (hm : s.Maps k n off count ps s1) : s.SameButTlb s1 := by
  obtain ⟨-, -, htr, -⟩ := hm
  exact (translateRange_ok htr).1

/-- A write answers exactly when its addresses are mapped, and then it stores its bytes there (R86, R87). -/
theorem memWrite_eq_ok_iff {s t : State} {n : SegName} {off : Word} {bs : List Byte} :
    memWrite s n off bs = .ok t ↔ ∃ ps s1, s.Maps .write n off bs.length ps s1 ∧ t = s1.storePhys ps bs := by
  have installed_iff : ∀ {ps : List Nat} {s1 : State}, s.SameButTlb s1 → ∀ x : Unit,
      (requireInstalled s1 ps = .ok x ↔ ∀ a ∈ ps, s.isInstalled a = true) := by
    intro ps s1 hs x
    obtain ⟨tlb, draws, rfl⟩ := hs.exists_eq
    exact requireInstalled_eq_ok _ ps x
  simp only [memWrite, bind_eq_ok, Prod.exists, checkSeg_eq_ok]
  constructor
  · rintro ⟨x, ⟨hbound, hattr⟩, ps, s1, htr, y, hinst, ht⟩
    cases ht
    exact ⟨ps, s1, ⟨hbound, hattr, htr, (installed_iff (translateRange_ok htr).1 y).mp hinst⟩, rfl⟩
  · rintro ⟨ps, s1, hm, rfl⟩
    obtain ⟨hbound, hattr, htr, hinst⟩ := hm
    exact ⟨(), ⟨hbound, hattr⟩, ps, s1, htr, (), (installed_iff (translateRange_ok htr).1 ()).mpr hinst, rfl⟩

/-- A push to mapped addresses stores the value's bytes there and takes 4 from ESP (R120). -/
theorem push32_of_maps {s s1 : State} {v : Word} {ps : List Nat}
    (hm : s.Maps .write .ss (s.r32 .esp - 4) 4 ps s1) :
    push32 s v = .ok ((s1.storePhys ps (toBytesLE v.toNat 4)).setR32 .esp (s.r32 .esp - 4)) := by
  have hw : memWrite s .ss (s.r32 .esp - 4) (toBytesLE v.toNat 4) = _ :=
    memWrite_eq_ok_iff.mpr ⟨ps, s1, by rwa [toBytesLE_length], rfl⟩
  simp only [push32, hw, bind_ok]

/-- The bytes of an access lie at addresses that are all different, so that what is stored there is held there. -/
theorem State.Maps.holds_storePhys {s s1 : State} {k : AccessKind} {n : SegName} {off : Word} {ps : List Nat}
    {bs : List Byte} (hm : s.Maps k n off bs.length ps s1) (hlen : bs.length ≤ 4096) :
    (s1.storePhys ps bs).HoldsBytes ps bs := by
  obtain ⟨-, -, htr, -⟩ := hm
  exact byteAt_setBytes_same ps _ bs (translateRange_ok htr).2.1 (translateRange_nodup htr hlen)

/-! ## PUSHF, SGDT and SIDT -/

theorem exec_pushf_of_push {s u t : State} {v : Word} (ha : s.allowed .flags .store = true)
    (hv : pushfValue s = (v, u)) (hpush : push32 u v = .ok t) : exec .pushf s = .next (t.retire 1) := by
  show conclude s _ = _
  simp only [requireAccess_allowed s _ _ ha, bind_ok, hv, hpush, conclude_ok]

/-- Settles O16: the push of PUSHF's image stores it at the mapped addresses, and retiring does the rest. -/
theorem pushfStoresItsImage : Obligations.PushfStoresItsImage := by
  intro s s1 ps ha hm
  obtain ⟨⟨v, u⟩, hv⟩ : ∃ x, pushfValue s = x := ⟨_, rfl⟩
  have hu : s.SameButTlb u := by simpa only [hv] using pushfValue_same s
  rw [hv] at hm ⊢
  have hesp : u.r32 .esp = s.r32 .esp := hu.r32 .esp
  rw [← hesp] at hm ⊢
  have hexec := exec_pushf_of_push ha hv (push32_of_maps hm)
  have hheld : (s1.storePhys ps (toBytesLE v.toNat 4)).HoldsBytes ps (toBytesLE v.toNat 4) :=
    State.Maps.holds_storePhys (by rwa [toBytesLE_length]) (by simp)
  obtain ⟨tlb, draws, rfl⟩ := (hu.trans hm.same).exists_eq
  exact ⟨_, hexec, hheld, fun a hmem => Memory.byteAt_setBytes_other _ _ _ _ hmem,
    by simp, fun r hr => State.r32_setR32_other _ _ _ _ hr, rfl⟩

/-- GDTR and IDTR can be stored in every mode and at every level (R70). -/
theorem State.allowed_table_store (s : State) :
    s.allowed .gdtr .store = true ∧ s.allowed .idtr .store = true := by
  unfold State.allowed
  cases s.mode <;> exact ⟨rfl, rfl⟩

/-- SGDT and SIDT store the image of their register and retire; when the store halts, so do they (R162, R164). -/
theorem exec_table_store (s : State) (disp : Word) :
    exec (.sgdt disp) s = conclude s (memWrite s .ds disp (tableImage s.gdtr) >>= fun u => .ok (u.retire 7)) ∧
    exec (.sidt disp) s = conclude s (memWrite s .ds disp (tableImage s.idtr) >>= fun u => .ok (u.retire 7)) := by
  obtain ⟨hgdtr, hidtr⟩ := s.allowed_table_store
  constructor <;> show conclude s _ = _
  · rw [requireAccess_allowed s _ _ hgdtr, bind_ok]
  · rw [requireAccess_allowed s _ _ hidtr, bind_ok]

@[simp] theorem tableImage_length (t : TableReg) : (tableImage t).length = 6 := by simp [tableImage]

/-- Settles O35: both instructions write the image of their register through the mapped addresses. -/
theorem tableRegisterStores : Obligations.TableRegisterStores := by
  intro s s1 disp ps hm i t hi
  have hm' : s.Maps .write .ds disp (tableImage t).length ps s1 := by rwa [tableImage_length]
  have hexec : exec i s = conclude s (memWrite s .ds disp (tableImage t) >>= fun u => .ok (u.retire 7)) := by
    obtain ⟨hsgdt, hsidt⟩ := exec_table_store s disp
    obtain ⟨rfl, rfl⟩ | ⟨rfl, rfl⟩ := hi
    · exact hsgdt
    · exact hsidt
  rw [memWrite_eq_ok_iff.mpr ⟨ps, s1, hm', rfl⟩, bind_ok, conclude_ok] at hexec
  have hheld := hm'.holds_storePhys (by simp)
  obtain ⟨tlb, draws, rfl⟩ := hm.same.exists_eq
  exact ⟨_, hexec, hheld, fun a hmem => Memory.byteAt_setBytes_other _ _ _ _ hmem, rfl⟩

/-! ## A pop after a push -/

/-- A pop from mapped addresses, in a state whose ESP has been written, gives the bytes memory holds there (R120). -/
theorem pop32_setR32_of_maps {s u w : State} {off : Word} {ps : List Nat} {bs : List Byte} (hu : s.SameButTlb u)
    (hm : u.Maps .read .ss off 4 ps w) (hb : s.HoldsBytes ps bs) :
    pop32 (u.setR32 .esp off) = .ok (BitVec.ofNat 32 (fromBytesLE bs), w.setR32 .esp (off + 4)) := by
  obtain ⟨tlb, draws, rfl⟩ := hu.exists_eq
  have hread := memRead_of_maps (hm.with_gpr (s.gpr.set .esp off)) hb
  obtain ⟨tlb', draws', rfl⟩ := hm.same.exists_eq
  have hesp : (({ s with tlb := tlb, draws := draws } : State).setR32 .esp off).r32 .esp = off :=
    State.r32_setR32_same _ _ _
  simp only [pop32, hesp]
  rw [show memRead (({ s with tlb := tlb, draws := draws } : State).setR32 .esp off) .ss off 4 = _ from hread, bind_ok]
  simp only [State.setR32, Gprs.set_set_same]

/-- With paging off a stretch of a segment lies at the same addresses for every access that the attributes allow, and
whatever has been stored (R84). -/
theorem State.Maps.storePhys_off {s s1 : State} {k k' : AccessKind} {n : SegName} {off : Word} {count : Nat}
    {ps : List Nat} (hoff : s.pagingOn = false) (hm : s.Maps k n off count ps s1)
    (hattr : attrAllows (s.seg n).attr k' s.curCpl = true) (qs : List Nat) (bs : List Byte) :
    s1 = s ∧ (s.storePhys qs bs).Maps k' n off count ps (s.storePhys qs bs) := by
  obtain ⟨hbound, -, htr, hinst⟩ := hm
  rw [translateRange_off _ _ _ _ hoff] at htr
  cases htr
  exact ⟨rfl, hbound, hattr, translateRange_off _ _ _ _ hoff, hinst⟩

/-- Settles O49: the pop reads the bytes that the push stored, at the same linear addresses. -/
theorem popUndoesPush : Obligations.PopUndoesPush := by
  intro s t v hoff hattr hpush
  obtain ⟨w, hw, rfl⟩ := push32_ok hpush
  obtain ⟨ps, s1, hwrite, rfl⟩ := memWrite_eq_ok_iff.mp hw
  have hheld := hwrite.holds_storePhys (by simp)
  rw [toBytesLE_length] at hwrite
  obtain ⟨rfl, hread⟩ := hwrite.storePhys_off hoff hattr ps (toBytesLE v.toNat 4)
  have hpop := pop32_setR32_of_maps (.refl _) hread hheld
  rw [ofNat_fromBytesLE_toBytesLE, BitVec.sub_add_cancel] at hpop
  exact ⟨_, hpop, Gprs.set_get_same s1.gpr .esp, rfl⟩

/-! ## IRET in real address mode -/

/-- Outside V86 mode and with no task to return to, IRET is the return of its frame (R122). -/
theorem exec_iret_eq {s : State} (hv86 : s.mode ≠ .v86) (hnt : s.mode = .pm → s.nt = false) :
    exec .iret s = conclude s (returnFrame s) := by
  have htask : ¬ (s.mode = .pm ∧ s.nt = true) := fun ⟨hpm, h⟩ => by simp [hnt hpm] at h
  show conclude s _ = _
  rw [if_neg hv86, if_neg htask]

/-- The selector that IRET takes from its frame gives the 8086's base: 16 times its value (R18, R122). -/
theorem load8086_extractLsb' (old : SegReg) (v : Word) :
    load8086 old (v.extractLsb' 0 16) =
      { old with sel := v.setWidth 16, base := BitVec.ofNat 32 (v.toNat % 65536 * 16), limit := 0xFFFF } := by
  have hsel : v.extractLsb' 0 16 = v.setWidth 16 := by
    refine BitVec.eq_of_getLsbD_eq fun i hi => ?_
    simp [BitVec.getLsbD_setWidth]
  have hbase : (v.extractLsb' 0 16).setWidth 32 <<< 4 = BitVec.ofNat 32 (v.toNat % 65536 * 16) := by
    refine BitVec.eq_of_toNat_eq ?_
    simp [BitVec.toNat_shiftLeft, Nat.shiftLeft_eq]
  rw [load8086, hbase, hsel]

/-- In real address mode the return of a frame loads what its three pops gave (R122, R160). -/
theorem returnFrame_rm {s t1 t2 t3 : State} {newEip newCs image : Word} (hm : s.mode = .rm)
    (h1 : pop32 s = .ok (newEip, t1)) (h2 : pop32 t1 = .ok (newCs, t2)) (h3 : pop32 t2 = .ok (image, t3))
    (hm3 : t3.mode = .rm) :
    returnFrame s = .ok { t3.setSeg .cs (load8086 (s.seg .cs) (newCs.extractLsb' 0 16)) with
      eip := newEip, eflags := popFlags s.eflags image 0, stored := [] } := by
  have hcpl : s.curCpl = 0 := by simp [State.curCpl, hm]
  have hcpl3 : t3.curCpl = 0 := by simp [State.curCpl, hm3]
  have hload := loadSelector_8086 t3 (s.seg .cs) (newCs.extractLsb' 0 16) .code (by simp [hm3])
  simp [returnFrame, h1, h2, h3, hm, hload, hcpl, hcpl3]

/-- Settles O20: the three pops read the frame at the mapped addresses, each after the translations of the last. -/
theorem iretReturnsToFrame : Obligations.IretReturnsToFrame := by
  intro s s1 s2 s3 p1 p2 p3 newEip newCs image m1 b1 m2 b2 m3 b3 hmode
  have hs1 := m1.same
  have hs2 := hs1.trans m2.same
  have hs3 := hs2.trans m3.same
  have h8 : s.r32 .esp + 4 + 4 = s.r32 .esp + 8 := BitVec.add_assoc _ _ _
  have h12 : s.r32 .esp + 8 + 4 = s.r32 .esp + 12 := BitVec.add_assoc _ _ _
  have h1 := pop32_of_maps m1 b1
  have h2 := pop32_setR32_of_maps hs1 m2 b2
  have h3 := pop32_setR32_of_maps hs2 m3 b3
  rw [ofNat_fromBytesLE_toBytesLE] at h2 h3
  rw [h8] at h2
  rw [h12] at h3
  obtain ⟨tlb, draws, rfl⟩ := hs3.exists_eq
  have hexec := exec_iret_eq (s := s) (by simp [hmode]) (by simp [hmode])
  rw [returnFrame_rm hmode h1 h2 h3 hmode, conclude_ok] at hexec
  exact ⟨_, hexec, rfl, (SegFile.get_set_same s.segs .cs _).trans (load8086_extractLsb' _ _),
    fun n hn => SegFile.get_set_other s.segs .cs n _ hn, rfl, Gprs.get_set_same s.gpr .esp _,
    fun r hr => Gprs.get_set_other s.gpr .esp r _ hr, rfl⟩

end Sys2Proof.Machine
end

section
/-! PROOFS. What a barred access and a stopped fetch answer: bounds and attributes (O50), and a byte that the program has
stored to (O52). -/

namespace Sys2Proof.Machine

/-! ## Barred accesses -/

/-- Out of bounds or denied, an access raises exception 13 (R82, R83). -/
theorem checkSeg_raises {s : State} {g : SegReg} {off n : Nat} {k : AccessKind}
    (h : g.limit.toNat + 1 < off + n ∨ attrAllows g.attr k s.curCpl = false) :
    checkSeg s g off n k = .error (.raise (.exc 13)) := by
  refine if_neg fun ⟨hbound, hattr⟩ => ?_
  obtain h | h := h
  · omega
  · rw [h] at hattr
    cases hattr

theorem memRead_barred {s : State} {n : SegName} {off : Word} {count : Nat} (h : s.Barred .read n off count) :
    memRead s n off count = .error (.raise (.exc 13)) := by
  simp only [memRead, checkSeg_raises h, bind_error]

theorem memWrite_barred {s : State} {n : SegName} {off : Word} {bs : List Byte}
    (h : s.Barred .write n off bs.length) : memWrite s n off bs = .error (.raise (.exc 13)) := by
  simp only [memWrite, checkSeg_raises h, bind_error]

theorem pop32_barred {s : State} (h : s.Barred .read .ss (s.r32 .esp) 4) : pop32 s = .error (.raise (.exc 13)) := by
  simp only [pop32, memRead_barred h, bind_error]

/-- A pop in a state whose ESP has been written is barred where the stack segment of the first state bars it. -/
theorem pop32_setR32_barred {s u : State} {off : Word} (hu : s.SameButTlb u) (h : s.Barred .read .ss off 4) :
    pop32 (u.setR32 .esp off) = .error (.raise (.exc 13)) := by
  obtain ⟨tlb, draws, rfl⟩ := hu.exists_eq
  refine pop32_barred ?_
  rw [State.r32_setR32_same]
  exact h

theorem push32_barred {s : State} (v : Word) (h : s.Barred .write .ss (s.r32 .esp - 4) 4) :
    push32 s v = .error (.raise (.exc 13)) := by
  have hw : memWrite s .ss (s.r32 .esp - 4) (toBytesLE v.toNat 4) = _ := memWrite_barred (by rwa [toBytesLE_length])
  simp only [push32, hw, bind_error]

/-! ## Instructions with a barred operand -/

theorem exec_pushf_barred {s : State} (ha : s.allowed .flags .store = true)
    (h : s.Barred .write .ss (s.r32 .esp - 4) 4) : exec .pushf s = .next (s.raised 13) := by
  have hpush : push32 (pushfValue s).2 (pushfValue s).1 = .error (.raise (.exc 13)) := by
    obtain ⟨tlb, draws, hu⟩ := (pushfValue_same s).exists_eq
    rw [hu]
    exact push32_barred _ h
  show conclude s _ = _
  simp only [requireAccess_allowed s _ _ ha, bind_ok, hpush, bind_error]
  rfl

theorem exec_popf_barred {s : State} (ha : s.allowed .flags .load = true)
    (h : s.Barred .read .ss (s.r32 .esp) 4) : exec .popf s = .next (s.raised 13) := by
  show conclude s _ = _
  simp only [requireAccess_allowed s _ _ ha, bind_ok, pop32_barred h, bind_error]
  rfl

theorem exec_table_load_barred {s : State} {disp : Word} (h : s.Barred .read .ds disp 6) :
    (s.allowed .gdtr .load = true → exec (.lgdt disp) s = .next (s.raised 13)) ∧
    (s.allowed .idtr .load = true → exec (.lidt disp) s = .next (s.raised 13)) := by
  have raised_of_allowed {g : RegGroup} (ha : s.allowed g .load = true) (load : List Byte × State → Op State) :
      conclude s (requireAccess s g .load >>= fun _ => memRead s .ds disp 6 >>= load) = .next (s.raised 13) := by
    simp only [requireAccess_allowed s _ _ ha, bind_ok, memRead_barred h, bind_error]
    rfl
  exact ⟨fun ha => raised_of_allowed ha _, fun ha => raised_of_allowed ha _⟩

theorem exec_table_store_barred {s : State} {disp : Word} (h : s.Barred .write .ds disp 6) :
    exec (.sgdt disp) s = .next (s.raised 13) ∧ exec (.sidt disp) s = .next (s.raised 13) := by
  have hw : ∀ t, memWrite s .ds disp (tableImage t) = .error (.raise (.exc 13)) := fun t =>
    memWrite_barred (by rwa [tableImage_length])
  obtain ⟨hsgdt, hsidt⟩ := exec_table_store s disp
  rw [hw, bind_error] at hsgdt hsidt
  exact ⟨hsgdt, hsidt⟩

/-- A frame is returned to only if each of its three pops answers (R122). -/
theorem returnFrame_pop_error {s : State} {h : Halt} :
    (pop32 s = .error h → returnFrame s = .error h) ∧
    ∀ {v1 t1}, pop32 s = .ok (v1, t1) →
      (pop32 t1 = .error h → returnFrame s = .error h) ∧
      ∀ {v2 t2}, pop32 t1 = .ok (v2, t2) → pop32 t2 = .error h → returnFrame s = .error h := by
  refine ⟨fun h1 => ?_, fun h1 => ⟨fun h2 => ?_, fun h2 h3 => ?_⟩⟩
  · simp only [returnFrame, h1, bind_error]
  · simp only [returnFrame, h1, h2, bind_ok, bind_error]
  · simp only [returnFrame, h1, h2, h3, bind_ok, bind_error]

/-! ## The length of an unfinished instruction -/

theorem decodeImm8_more {mk : Byte → Instr} {bs : List Byte} (h : decodeImm8 mk bs = .more) : bs.length < 1 := by
  unfold decodeImm8 at h
  split at h
  · cases h
  · exact Nat.one_pos

theorem decodePtr_more {mk : Word → Half → Instr} {bs : List Byte} (h : decodePtr mk bs = .more) : bs.length < 6 := by
  unfold decodePtr at h
  split at h
  · cases h
  · rename_i hshort
    match bs with
    | [] | [_] | [_, _] | [_, _, _] | [_, _, _, _] | [_, _, _, _, _] => simp
    | b0 :: b1 :: b2 :: b3 :: b4 :: b5 :: rest => exact absurd rfl (hshort b0 b1 b2 b3 b4 b5 rest)

theorem decodeDisp_more {mk : Word → Instr} {bs : List Byte} (h : decodeDisp mk bs = .more) : bs.length < 4 := by
  unfold decodeDisp at h
  split at h
  · cases h
  · rename_i hshort
    match bs with
    | [] | [_] | [_, _] | [_, _, _] => simp
    | b0 :: b1 :: b2 :: b3 :: rest => exact absurd rfl (hshort b0 b1 b2 b3 rest)

theorem decodeRR_more {mk : BitVec 3 → Reg → Instr} {bs : List Byte} (h : decodeRR mk bs = .more) : bs.length < 1 := by
  unfold decodeRR at h
  split at h
  · split at h <;> cases h
  · exact Nat.one_pos

theorem decode0F00_more {bs : List Byte} (h : decode0F00 bs = .more) : bs.length < 1 := by
  unfold decode0F00 at h
  split at h
  · split at h
    · split at h <;> cases h
    · cases h
  · exact Nat.one_pos

theorem decode0F01_more {bs : List Byte} (h : decode0F01 bs = .more) : bs.length < 5 := by
  unfold decode0F01 at h
  split at h
  · split at h
    · split at h <;> cases h
    · split at h
      · split at h
        case h_1 | h_2 | h_3 | h_4 => exact Nat.succ_lt_succ (decodeDisp_more h)
        case h_5 => cases h
      · cases h
  · simp

theorem decode0F_more {bs : List Byte} (h : decode0F bs = .more) : bs.length < 6 := by
  unfold decode0F at h
  split at h
  · simp
  · rename_i op rest
    have hlen : rest.length < 5 := by
      split at h
      case h_1 => exact (decode0F00_more h).trans (by decide)
      case h_2 => exact decode0F01_more h
      case h_9 => cases h
      all_goals exact (decodeRR_more h).trans (by decide)
    exact Nat.succ_lt_succ hlen

/-- While the decoder asks for another byte, fewer than the longest instruction's seven have been fetched (R109). -/
theorem length_lt_longestInstr_of_more {bs : List Byte} (h : decodeBytes bs = .more) : bs.length < longestInstr := by
  unfold decodeBytes at h
  split at h
  · simp
  · rename_i op rest
    refine Nat.succ_lt_succ ?_
    split at h
    case h_4 | h_5 => exact decodePtr_more h
    case h_6 | h_7 | h_8 | h_9 | h_10 => exact (decodeImm8_more h).trans (by decide)
    case h_16 | h_17 => exact (decodeRR_more h).trans (by decide)
    case h_18 => exact decode0F_more h
    case h_19 =>
      split at h
      · cases h
      · split at h <;> cases h
    all_goals cases h

/-! ## A fetch that stops -/

/-- In a state that is ready to fetch nothing ends the step before the fetch (R219 steps 0 to 2). -/
theorem beforeFetch_eq_none {s : State} (h : s.ReadyToFetch) : beforeFetch s = none := by
  obtain ⟨htrap, hintr, hundef, hexec⟩ := h
  have hno_interrupt : (s.ifl && s.intrNow) = false := by
    cases hif : s.ifl with
    | false => rfl
    | true => rw [hintr hif, Bool.and_false]
  have hnumber : ∀ n ∈ breakpoints, n < 4 := by decide
  have hno_undefined : s.enabledUndefined = false := by
    refine List.any_eq_false.mpr fun n hn hboth => ?_
    obtain ⟨henabled, hu⟩ := Bool.and_eq_true_iff.mp hboth
    rw [hundef n (hnumber n hn) henabled] at hu
    cases hu
  have hno_break : (!s.rf && (s.execHits (s.fetchLinear 0)).any s.breakEnabled) = false := by
    cases hrf : s.rf with
    | true => rfl
    | false =>
      refine List.any_eq_false.mpr fun n hn henabled => ?_
      obtain ⟨hn, hhit⟩ := List.mem_filter.mp hn
      simp only [Bool.and_eq_true, beq_iff_eq] at hhit
      obtain ⟨⟨hkind, -⟩, haddr⟩ := hhit
      exact hexec hrf n (hnumber n hn) henabled hkind haddr
  simp [beforeFetch, htrap, hno_interrupt, hno_undefined, hno_break]

theorem step_of_fetch_error {s : State} {h : Halt} (hr : s.ReadyToFetch) (hf : fetch s = .error h) :
    step s = conclude s (.error h) := by
  simp only [step, beforeFetch_eq_none hr, hf]

theorem fetchFrom_error {s : State} {got : List Byte} {h : Halt} (hb : fetchByte s got.length = .error h)
    (fuel : Nat) : fetchFrom s got (fuel + 1) = .error h := by
  simp only [fetchFrom, hb, bind_error]

/-- Each byte that can be fetched is fetched and leaves the state as it was (R219 step 3). -/
theorem fetchByte_of_codeAt {s : State} {bs : List Byte} (hc : s.CodeAt bs) {k : Nat} (hk : k < bs.length) :
    fetchByte s k = .ok (bs[k], s) := by
  obtain ⟨hoff, hbound, hattr, hbytes⟩ := hc
  obtain ⟨hinst, hbyte, hfresh⟩ := hbytes k hk
  have hcheck := (checkSeg_eq_ok s (s.seg .cs) (s.eip.toNat + k) 1 .execute ()).mpr ⟨by omega, hattr⟩
  have hread := (readPhys_eq_ok s _ _).mpr ⟨hinst, hbyte.trans (List.getElem?_eq_getElem hk)⟩
  simp only [fetchByte, hcheck, translate_off s _ _ hoff, bind_ok, List.contains_iff_mem, hfresh, if_false, hread]

/-- The fetch takes every byte of an unfinished instruction, one unit of fuel each. -/
theorem fetchFrom_of_codeAt {s : State} {bs : List Byte} (hc : s.CodeAt bs)
    (hmore : ∀ k ≤ bs.length, decodeBytes (bs.take k) = .more) (fuel : Nat) :
    ∀ j k, k + j = bs.length → fetchFrom s (bs.take k) (fuel + j) = fetchFrom s bs fuel := by
  intro j
  induction j with
  | zero =>
    rintro k rfl
    rw [Nat.add_zero, List.take_length]
  | succ j ih =>
    intro k hk
    have hlt : k < bs.length := by omega
    have hlen : (bs.take k).length = k := List.length_take_of_le hlt.le
    have htake : bs.take k ++ [bs[k]] = bs.take (k + 1) := List.take_append_getElem hlt
    rw [← ih (k + 1) (by omega), ← Nat.add_assoc]
    simp only [fetchFrom, hlen, fetchByte_of_codeAt hc hlt, bind_ok, htake, hmore (k + 1) hlt]

/-- A fetch that cannot take the byte after an unfinished instruction stops there. -/
theorem fetch_error_after {s : State} {bs : List Byte} {h : Halt} (hc : s.CodeAt bs) (hgo : FetchGoesOn bs)
    (hmore : decodeBytes bs = .more) (hb : fetchByte s bs.length = .error h) : fetch s = .error h := by
  have hall : ∀ k ≤ bs.length, decodeBytes (bs.take k) = .more := by
    intro k hk
    obtain hlt | rfl := hk.lt_or_eq
    · exact hgo k hlt
    · rwa [List.take_length]
  obtain ⟨fuel, hfuel⟩ : ∃ fuel, longestInstr = fuel + 1 + bs.length :=
    ⟨longestInstr - bs.length - 1, by have := length_lt_longestInstr_of_more hmore; omega⟩
  have hfetch := fetchFrom_of_codeAt hc hall (fuel + 1) bs.length 0 (Nat.zero_add _)
  rw [fetch, hfuel]
  exact hfetch.trans (fetchFrom_error hb fuel)

/-- Settles O52: the fetch reaches the stored byte, passes the checks and the translation, and is refused. -/
theorem storedByteIsNotFetched : Obligations.StoredByteIsNotFetched := by
  intro s bs hr hc hgo hmore hbound hstored
  obtain ⟨hoff, -, hattr, -⟩ := id hc
  have hcheck := (checkSeg_eq_ok s (s.seg .cs) (s.eip.toNat + bs.length) 1 .execute ()).mpr ⟨by omega, hattr⟩
  have hbyte : fetchByte s bs.length = .error (.refuse .storedByteFetched) := by
    simp only [fetchByte, hcheck, translate_off s _ _ hoff, bind_ok, List.contains_iff_mem, hstored, if_true]
  exact step_of_fetch_error hr (fetch_error_after hc hgo hmore hbyte)

/-! ## Bounds and attributes -/

/-- IRET raises exception 13 at the first of its three pops that is barred, once those before it have read (R122). -/
theorem exec_iret_barred {s : State} (hv86 : s.mode ≠ .v86) (hnt : s.mode = .pm → s.nt = false) :
    (s.Barred .read .ss (s.r32 .esp) 4 → exec .iret s = .next (s.raised 13)) ∧
    ∀ (s1 : State) (p1 : List Nat) (b1 : List Byte),
      s.Maps .read .ss (s.r32 .esp) 4 p1 s1 → s.HoldsBytes p1 b1 →
      (s.Barred .read .ss (s.r32 .esp + 4) 4 → exec .iret s = .next (s.raised 13)) ∧
      ∀ (s2 : State) (p2 : List Nat) (b2 : List Byte),
        s1.Maps .read .ss (s.r32 .esp + 4) 4 p2 s2 → s.HoldsBytes p2 b2 →
        s.Barred .read .ss (s.r32 .esp + 8) 4 → exec .iret s = .next (s.raised 13) := by
  have raised_of_error (h : returnFrame s = .error (.raise (.exc 13))) : exec .iret s = .next (s.raised 13) := by
    rw [exec_iret_eq hv86 hnt, h]
    rfl
  obtain ⟨first, later⟩ := returnFrame_pop_error (s := s) (h := .raise (.exc 13))
  refine ⟨fun h => raised_of_error (first (pop32_barred h)), fun s1 p1 b1 m1 hb1 => ?_⟩
  have h1 := pop32_setR32_of_maps (.refl s) m1 hb1
  rw [State.setR32_r32] at h1
  obtain ⟨second, third⟩ := later h1
  refine ⟨fun h => raised_of_error (second (pop32_setR32_barred m1.same h)), fun s2 p2 b2 m2 hb2 h => ?_⟩
  have h2 := pop32_setR32_of_maps m1.same m2 hb2
  have h8 : s.r32 .esp + 4 + 4 = s.r32 .esp + 8 := BitVec.add_assoc _ _ _
  rw [h8] at h2
  exact raised_of_error (third h2 (pop32_setR32_barred (m1.same.trans m2.same) h))

/-- A byte of the instruction that is out of bounds or denied is not fetched (R219 step 3). -/
theorem fetchByte_raises {s : State} {k : Nat}
    (h : (s.seg .cs).limit.toNat + 1 < s.eip.toNat + k + 1 ∨ attrAllows (s.seg .cs).attr .execute s.curCpl = false) :
    fetchByte s k = .error (.raise (.exc 13)) := by
  simp only [fetchByte, checkSeg_raises h, bind_error]

/-- Settles O50: every access begins with the check that raises, and the conclusion discards what came before it. -/
theorem boundsViolationTraps : Obligations.BoundsViolationTraps := by
  intro s disp
  refine ⟨exec_pushf_barred, exec_popf_barred, exec_iret_barred, fun ha h => (exec_table_load_barred h).1 ha,
    fun ha h => (exec_table_load_barred h).2 ha, exec_table_store_barred, fun hr h => ?_, fun bs hr hc hgo hmore h => ?_⟩
  · exact step_of_fetch_error hr (fetchFrom_error (fetchByte_raises (k := 0) h) 6)
  · exact step_of_fetch_error hr (fetch_error_after hc hgo hmore (fetchByte_raises (.inl (by omega))))

end Sys2Proof.Machine
end

section
/-! PROOFS. Translation by the tables, and the page miss that POPF leaves in CR2 (O51). -/

namespace Sys2Proof.Machine

/-! ## Translation by the tables -/

section
variable {s : State} {k : AccessKind} {lin : Word}

/-- Where the translation buffer holds no other answer, a page that the tables do not map is missed (R84, R94). -/
theorem translate_miss (hon : s.pagingOn = true) (hfresh : s.staleWalks (lin.extractLsb' 12 20) k s.curCpl = [])
    (hwalk : s.walk (lin.extractLsb' 12 20) k s.curCpl = none) :
    translate s k lin = .error (.raise (.pageMiss lin)) := by
  rw [translate, if_pos hon, pageResult_fresh hfresh, hwalk]

/-- Where it holds no other answer, a page that the tables map is translated by them and counts as used (R84, R94). -/
theorem translate_mapped {frame : BitVec 20} (hon : s.pagingOn = true)
    (hfresh : s.staleWalks (lin.extractLsb' 12 20) k s.curCpl = [])
    (hwalk : s.walk (lin.extractLsb' 12 20) k s.curCpl = some frame) :
    translate s k lin = .ok (frame ++ lin.extractLsb' 0 12, s.rememberPage (lin.extractLsb' 12 20)) := by
  rw [translate, if_pos hon, pageResult_fresh hfresh, hwalk]

end

/-- A page that the translation buffer does not hold has no other answer than the tables' (R94). -/
theorem staleWalks_of_unused {s : State} {page : BitVec 20} (h : ∀ e ∈ s.tlb, e.page ≠ page) (k : AccessKind)
    (c : BitVec 2) : s.staleWalks page k c = [] := by
  have hnone : s.tlb.filter (fun e => e.page == page) = [] :=
    List.filter_eq_nil_iff.mpr fun e he hpage => h e he (eq_of_beq hpage)
  rw [State.staleWalks, hnone]
  rfl

/-! ## What a read of a range can raise -/

/-- A sequence of two operations halts exactly when the first does, or the second after it. -/
theorem bind_eq_error {α β : Type} (x : Op α) (f : α → Op β) (e : Halt) :
    (x >>= f) = .error e ↔ x = .error e ∨ ∃ a, x = .ok a ∧ f a = .error e := by
  cases x with
  | ok a => simp
  | error h => simp

/-- A range is halted by a page miss at one of its own addresses (R87, R208). -/
theorem translateRange_error {n : Nat} {s : State} {k : AccessKind} {lin : Word} {x : Halt}
    (h : translateRange s k lin n = .error x) : ∃ i < n, x = .raise (.pageMiss (lin + BitVec.ofNat 32 i)) := by
  induction n generalizing s lin with
  | zero => cases h
  | succ n ih =>
    simp only [translateRange, bind_eq_error, Prod.exists] at h
    obtain hfirst | ⟨p, s1, -, hrest | ⟨qs, s2, -, h⟩⟩ := h
    · exact ⟨0, Nat.succ_pos n, by simpa using (translate_error hfirst).1⟩
    · obtain ⟨i, hi, rfl⟩ := ih hrest
      refine ⟨i + 1, Nat.succ_lt_succ hi, ?_⟩
      rw [BitVec.add_assoc, Nat.add_comm i 1, BitVec.ofNat_add]
      rfl
    · cases h

/-- Once its first byte is translated, a range that does not wrap onto itself is not missed at its first address. -/
theorem translateRange_not_first {n : Nat} {s : State} {k : AccessKind} {lin : Word} {r : Word × State}
    (hn : n < addressSpace) (hfirst : translate s k lin = .ok r) :
    translateRange s k lin (n + 1) ≠ .error (.raise (.pageMiss lin)) := by
  intro h
  simp only [translateRange, hfirst, bind_ok, bind_eq_error, Prod.exists] at h
  obtain hrest | ⟨qs, s2, -, h⟩ := h
  · obtain ⟨i, hi, heq⟩ := translateRange_error hrest
    have hlt : i < 4294967295 := hi.trans_le (Nat.le_of_lt_succ hn)
    have haddr : lin = lin + 1 + BitVec.ofNat 32 i := by simpa using heq
    bv_omega
  · cases h

/-- A read of physical memory raises no exception: what halts it has no step (R89). -/
theorem readPhysList_error {ps : List Nat} {s : State} {x : Halt} (h : readPhysList s ps = .error x) :
    ∃ f, x = .fault f := by
  induction ps with
  | nil => cases h
  | cons a as ih =>
    simp only [readPhysList, bind_eq_error] at h
    obtain hbyte | ⟨b, -, hrest | ⟨bs, -, h⟩⟩ := h
    · unfold readPhys at hbyte
      split at hbyte
      · split at hbyte
        · cases hbyte
        · cases hbyte
          exact ⟨_, rfl⟩
      · cases hbyte
        exact ⟨_, rfl⟩
    · exact ih hrest
    · cases h

/-- A read that passes the segment's checks raises what the translation of its range raises (R82, R84). -/
theorem memRead_raise {s : State} {n : SegName} {off : Word} {count : Nat} {c : TrapCause}
    (hcheck : checkSeg s (s.seg n) off.toNat count .read = .ok ())
    (h : memRead s n off count = .error (.raise c)) :
    translateRange s .read (linearAddr (s.seg n) off) count = .error (.raise c) := by
  simp only [memRead, hcheck, bind_ok, bind_eq_error, Prod.exists] at h
  obtain htr | ⟨ps, s1, -, hread | ⟨bs, -, h⟩⟩ := h
  · exact htr
  · obtain ⟨f, hf⟩ := readPhysList_error hread
    cases hf
  · cases h

/-! ## POPF -/

/-- POPF raises what its pop raises, or completes and traps nothing (R121). -/
theorem exec_popf_next_cases {s t : State} (ha : s.allowed .flags .load = true) (h : exec .popf s = .next t) :
    t.trapped = s.trapped ∨ ∃ c, memRead s .ss (s.r32 .esp) 4 = .error (.raise c) ∧ t = s.takeException c := by
  obtain hok | ⟨c, herr, ht⟩ := (conclude_next_iff _ _ _).mp h
  · rw [requireAccess_allowed s _ _ ha] at hok
    simp only [bind_eq_ok, bind_ok, Prod.exists] at hok
    obtain ⟨image, s1, hpop, heq⟩ := hok
    obtain ⟨u, g, hu, rfl⟩ := pop32_same hpop
    cases heq
    obtain ⟨tlb, draws, rfl⟩ := hu.exists_eq
    exact .inl rfl
  · rw [requireAccess_allowed s _ _ ha] at herr
    simp only [pop32, bind_ok, bind_eq_error, Prod.exists] at herr
    obtain (hread | ⟨bs, s1, -, h⟩) | ⟨image, s1, -, h⟩ := herr
    · exact .inr ⟨c, hread, ht⟩
    · cases h
    · cases h

/-- Settles O51: the first byte's page decides, since a miss of a later byte has another address. -/
theorem pageMissLeavesAddress : Obligations.PageMissLeavesAddress := by
  intro s htrap hon
  refine ⟨fun kind lin hfresh => ?_, fun page hpage kind => staleWalks_of_unused hpage kind _,
    fun ha hbound hattr hfresh => ?_⟩
  · split
    case h_1 hwalk => exact translate_miss hon hfresh hwalk
    case h_2 frame hwalk => exact translate_mapped hon hfresh hwalk
  · have hcheck := (checkSeg_eq_ok s (s.seg .ss) (s.r32 .esp).toNat 4 .read ()).mpr ⟨hbound, hattr⟩
    split
    case h_1 hwalk =>
      have hmiss := translate_miss hon hfresh hwalk
      show conclude s _ = _
      simp only [requireAccess_allowed s _ _ ha, pop32, memRead, hcheck, translateRange, linearAddr, hmiss, bind_ok,
        bind_error]
      rfl
    case h_2 frame hwalk =>
      intro t ht hmiss
      obtain hkept | ⟨c, hread, rfl⟩ := exec_popf_next_cases ha ht
      · rw [hkept, htrap] at hmiss
        cases hmiss
      · rw [State.takeException_trapped] at hmiss
        cases hmiss
        exact translateRange_not_first (by decide) (translate_mapped hon hfresh hwalk) (memRead_raise hcheck hread)

end Sys2Proof.Machine
end

section
/-! PROOFS. The encoding: what the decoder does with the bytes of each format, that decoding and encoding undo each
other (O2, O3), what the decoder waits for (O4), the table's bytes (O1) and the refusals by name (O5). -/

namespace Sys2Proof

open Machine (toNat_append_eq_add toNat_extractLsb'_eq)

/-! ## Fields of bytes -/

theorem Reg.ofNum_num (r : Reg) : Reg.ofNum r.num = r := by cases r <;> rfl

theorem Reg.num_ofNum : ∀ n : BitVec 3, (Reg.ofNum n).num = n := by decide

theorem eq_ofNat_of_toNat {w n : Nat} {b : BitVec w} (h : b.toNat = n) : b = BitVec.ofNat w n := by
  rw [← h, BitVec.ofNat_toNat, BitVec.setWidth_eq]

@[simp] theorem modOf_modRM (mod : BitVec 2) (reg rm : BitVec 3) : modOf (modRM mod reg rm) = mod := by
  rw [modOf, modRM, BitVec.append_assoc]
  exact BitVec.extractLsb'_append_eq_left

@[simp] theorem regOf_modRM (mod : BitVec 2) (reg rm : BitVec 3) : regOf (modRM mod reg rm) = reg := by
  have h := BitVec.extractLsb'_append_eq_of_le (xhi := mod ++ reg) (xlo := rm) (start := 3) (len := 3) (by decide)
  exact h.trans BitVec.extractLsb'_append_eq_right

@[simp] theorem rmOf_modRM (mod : BitVec 2) (reg rm : BitVec 3) : rmOf (modRM mod reg rm) = rm :=
  BitVec.extractLsb'_append_eq_right

/-- A ModR/M byte has no bits outside its three fields (R102). -/
theorem modRM_fields (m : Byte) : modRM (modOf m) (regOf m) (rmOf m) = m := by
  apply BitVec.eq_of_toNat_eq
  simp only [modRM, modOf, regOf, rmOf, toNat_append_eq_add, toNat_extractLsb'_eq]
  omega

/-- A ModR/M byte is given by its `mod`, the number in `reg` and the register that `rm` names (R102, R103). -/
theorem modRM_eq_of_fields {m : Byte} {mod : BitVec 2} {reg : BitVec 3} (hmod : modOf m = mod) (hreg : regOf m = reg) :
    modRM mod reg (Reg.ofNum (rmOf m)).num = m := by
  rw [Reg.num_ofNum, ← hmod, ← hreg, modRM_fields]

theorem toNat_modOf (m : Byte) : (modOf m).toNat = m.toNat / 64 := by
  rw [modOf, toNat_extractLsb'_eq]
  omega

theorem toNat_rmOf (m : Byte) : (rmOf m).toNat = m.toNat % 8 := by
  rw [rmOf, toNat_extractLsb'_eq]
  omega

theorem word32_bytes (v : Word) :
    word32 (v.extractLsb' 0 8) (v.extractLsb' 8 8) (v.extractLsb' 16 8) (v.extractLsb' 24 8) = v := by
  apply BitVec.eq_of_toNat_eq
  simp only [word32, toNat_append_eq_add, toNat_extractLsb'_eq]
  omega

theorem bytes32_word32 (b0 b1 b2 b3 : Byte) : bytes32 (word32 b0 b1 b2 b3) = [b0, b1, b2, b3] := by
  simp only [bytes32, word32, List.cons.injEq, and_true, ← BitVec.toNat_inj, toNat_append_eq_add, toNat_extractLsb'_eq]
  omega

theorem half16_bytes (v : Half) : half16 (v.extractLsb' 0 8) (v.extractLsb' 8 8) = v :=
  BitVec.extractLsb'_append_extractLsb'

theorem bytes16_half16 (b0 b1 : Byte) : bytes16 (half16 b0 b1) = [b0, b1] := by
  rw [bytes16, half16, BitVec.extractLsb'_append_eq_left, BitVec.extractLsb'_append_eq_right]

/-! ## The formats

For a format whose instructions are encoded as opcode bytes `pre` and then operand bytes, its decoder gives back the
operands of the encoding (`_encode`), and the bytes of an instruction that it answers begin with that instruction's
encoding (`_done`). -/

theorem decodeImm8_done {mk : Byte → Instr} {pre bs : List Byte} {i : Instr} (henc : ∀ b, encode (mk b) = pre ++ [b])
    (h : decodeImm8 mk bs = .done i) : encode i <+: pre ++ bs := by
  cases bs with
  | nil => cases h
  | cons b rest =>
    cases h
    exact ⟨rest, by simp [henc]⟩

theorem decodePtr_encode (mk : Word → Half → Instr) (off : Word) (sel : Half) (rest : List Byte) :
    decodePtr mk (bytes32 off ++ bytes16 sel ++ rest) = .done (mk off sel) := by
  change Decoded.done (mk (word32 _ _ _ _) (half16 _ _)) = _
  rw [word32_bytes, half16_bytes]

theorem decodePtr_done {mk : Word → Half → Instr} {pre bs : List Byte} {i : Instr}
    (henc : ∀ off sel, encode (mk off sel) = pre ++ (bytes32 off ++ bytes16 sel))
    (h : decodePtr mk bs = .done i) : encode i <+: pre ++ bs := by
  unfold decodePtr at h
  split at h
  case h_1 b0 b1 b2 b3 b4 b5 rest =>
    cases h
    exact ⟨rest, by simp [henc, bytes32_word32, bytes16_half16]⟩
  case h_2 => cases h

theorem decodeDisp_encode (mk : Word → Instr) (d : Word) (rest : List Byte) :
    decodeDisp mk (bytes32 d ++ rest) = .done (mk d) := by
  change Decoded.done (mk (word32 _ _ _ _)) = _
  rw [word32_bytes]

theorem decodeDisp_done {mk : Word → Instr} {pre bs : List Byte} {i : Instr}
    (henc : ∀ d, encode (mk d) = pre ++ bytes32 d) (h : decodeDisp mk bs = .done i) : encode i <+: pre ++ bs := by
  unfold decodeDisp at h
  split at h
  case h_1 b0 b1 b2 b3 rest =>
    cases h
    exact ⟨rest, by simp [henc, bytes32_word32]⟩
  case h_2 => cases h

/-- A register-direct form, read from a ModR/M byte, is encoded by that byte (R102). -/
theorem encode_register_isPrefix {mk : Reg → Instr} {pre rest : List Byte} {m : Byte} {reg : BitVec 3}
    (henc : ∀ r, encode (mk r) = pre ++ [modRM 3 reg r.num]) (hmod : modOf m = 3) (hreg : regOf m = reg) :
    encode (mk (Reg.ofNum (rmOf m))) <+: pre ++ m :: rest :=
  ⟨rest, by rw [henc, modRM_eq_of_fields hmod hreg, List.append_assoc, List.singleton_append]⟩

theorem decodeRR_encode (mk : BitVec 3 → Reg → Instr) (n : BitVec 3) (r : Reg) (rest : List Byte) :
    decodeRR mk (modRM 3 n r.num :: rest) = .done (mk n r) := by
  simp only [decodeRR, modOf_modRM, regOf_modRM, rmOf_modRM, Reg.ofNum_num, if_true]

theorem decodeRR_done {mk : BitVec 3 → Reg → Instr} {pre bs : List Byte} {i : Instr}
    (henc : ∀ n r, encode (mk n r) = pre ++ [modRM 3 n r.num]) (h : decodeRR mk bs = .done i) :
    encode i <+: pre ++ bs := by
  unfold decodeRR at h
  split at h
  case h_1 m rest =>
    split at h
    case isTrue hmod =>
      cases h
      exact encode_register_isPrefix (henc _) hmod rfl
    case isFalse => cases h
  case h_2 => cases h

/-! ## Bytes that decode begin with the encoding -/

theorem decode0F00_done {bs : List Byte} {i : Instr} (h : decode0F00 bs = .done i) :
    encode i <+: 0x0F :: 0x00 :: bs := by
  unfold decode0F00 at h
  split at h
  case h_2 => cases h
  case h_1 m rest =>
    split at h
    case isFalse => cases h
    case isTrue hmod =>
      split at h
      case h_5 => cases h
      all_goals
        rename_i hreg
        cases h
        exact encode_register_isPrefix (pre := [0x0F, 0x00]) (fun _ => rfl) hmod (eq_ofNat_of_toNat hreg)

theorem decode0F01_done {bs : List Byte} {i : Instr} (h : decode0F01 bs = .done i) :
    encode i <+: 0x0F :: 0x01 :: bs := by
  unfold decode0F01 at h
  split at h
  case h_2 => cases h
  case h_1 m rest =>
    split at h
    case isTrue hmod =>
      split at h
      case isFalse => cases h
      case isTrue hreg =>
        cases h
        exact encode_register_isPrefix (pre := [0x0F, 0x01]) (fun _ => rfl) hmod hreg
    case isFalse hmod =>
      split at h
      case isFalse => cases h
      case isTrue hshape =>
        obtain ⟨hmod, hrm⟩ := hshape
        have disp_done {mk : Word → Instr} {reg : BitVec 3} (hreg : regOf m = reg)
            (henc : ∀ d, encode (mk d) = [0x0F, 0x01, modRM 0 reg 5] ++ bytes32 d)
            (h : decodeDisp mk rest = .done i) : encode i <+: 0x0F :: 0x01 :: m :: rest := by
          rw [← hmod, ← hrm, ← hreg, modRM_fields] at henc
          exact decodeDisp_done henc h
        split at h
        case h_5 => cases h
        all_goals
          rename_i hreg
          exact disp_done (eq_ofNat_of_toNat hreg) (fun _ => rfl) h

theorem decode0F_done {bs : List Byte} {i : Instr} (h : decode0F bs = .done i) : encode i <+: 0x0F :: bs := by
  cases bs with
  | nil => cases h
  | cons op rest =>
    simp only [decode0F] at h
    split at h
    case h_9 => cases h
    all_goals
      rename_i hop
      obtain rfl := eq_ofNat_of_toNat hop
    case h_1 => exact decode0F00_done h
    case h_2 => exact decode0F01_done h
    all_goals exact decodeRR_done (pre := [0x0F, _]) (fun _ _ => rfl) h

/-- Bytes that decode begin with the encoding of what they decode to. -/
theorem decodeBytes_done {bs : List Byte} {i : Instr} (h : decodeBytes bs = .done i) : encode i <+: bs := by
  cases bs with
  | nil => cases h
  | cons op rest =>
    simp only [decodeBytes] at h
    split at h
    case h_19 =>
      split at h
      case isTrue hesc =>
        cases h
        exact ⟨rest, by rw [encode, ← hesc, BitVec.extractLsb'_append_extractLsb']; rfl⟩
      case isFalse => split at h <;> cases h
    all_goals
      rename_i hop
      obtain rfl := eq_ofNat_of_toNat hop
    case h_4 | h_5 => exact decodePtr_done (pre := [_]) (fun _ _ => rfl) h
    case h_6 | h_7 | h_8 | h_9 | h_10 => exact decodeImm8_done (pre := [_]) (fun _ => rfl) h
    case h_16 | h_17 => exact decodeRR_done (pre := [_]) (fun _ _ => rfl) h
    case h_18 => exact decode0F_done h
    all_goals
      cases h
      exact ⟨rest, rfl⟩

/-- Settles O3: the opcode selects the row, and the row reads every bit of its operands. -/
theorem encodeOfDecode : Obligations.EncodeOfDecode := by
  intro bs i h
  obtain ⟨rest, hrest⟩ := decodeBytes_done h
  exact ⟨rest, hrest.symm⟩

/-! ## Encodings decode -/

/-- The low three bits of an ESC byte are its operand, and no ESC byte is another row's opcode (R105). -/
theorem decodeBytes_esc (x : BitVec 3) (rest : List Byte) :
    decodeBytes ((0b11011#5 ++ x) :: rest) = .done (.esc x) := by
  have hhi : (0b11011#5 ++ x).extractLsb' 3 5 = 0b11011#5 := BitVec.extractLsb'_append_eq_left
  have hlo : (0b11011#5 ++ x).extractLsb' 0 3 = x := BitVec.extractLsb'_append_eq_right
  have hop : (0b11011#5 ++ x).toNat = 216 + x.toNat := toNat_append_eq_add _ _
  simp only [decodeBytes]
  split
  case h_19 => rw [if_pos hhi, hlo]
  all_goals omega

/-- Settles O2: each row's opcode bytes lead to the decoder of its format, which gives back the operands. -/
theorem decodeOfEncode : Obligations.DecodeOfEncode := by
  intro i rest
  cases i with
  | pushf | popf | iret | inAlDx | inEaxDx | outDxAl | outDxEax | wait => rfl
  | intImm | inAlImm | inEaxImm | outImmAl | outImmEax => rfl
  | jmpFar off sel | callFar off sel => exact decodePtr_encode _ off sel rest
  | movCrR32 n r | movDrR32 n r | movTrR32 n r | movSegR16 n r => exact decodeRR_encode _ n r rest
  | movR32Cr r n => exact decodeRR_encode (fun n r => .movR32Cr r n) n r rest
  | movR32Dr r n => exact decodeRR_encode (fun n r => .movR32Dr r n) n r rest
  | movR32Tr r n => exact decodeRR_encode (fun n r => .movR32Tr r n) n r rest
  | movR16Seg r n => exact decodeRR_encode (fun n r => .movR16Seg r n) n r rest
  | lmsw r | lldt r | sldt r | ltr r | str r =>
    simp [decodeBytes, encode, decode0F, decode0F00, decode0F01, Reg.ofNum_num]
  | lgdt d | sgdt d | lidt d | sidt d => exact decodeDisp_encode _ d rest
  | esc x => exact decodeBytes_esc x rest

theorem decodeBytes_encode (i : Instr) : decodeBytes (encode i) = .done i := by
  rw [← decodeOfEncode i [], List.append_nil]

/-! ## An answer is final -/

/-- Once the decoder of a format has answered, bytes that follow do not change the answer. -/
def AnswersOnce (d : List Byte → Decoded) : Prop := ∀ bs ext, d bs = .more ∨ d (bs ++ ext) = d bs

theorem AnswersOnce.of_cons {d : List Byte → Decoded} (hnil : d [] = .more)
    (hcons : ∀ b rest ext, d (b :: rest) = .more ∨ d (b :: (rest ++ ext)) = d (b :: rest)) : AnswersOnce d := by
  intro bs ext
  cases bs with
  | nil => exact .inl hnil
  | cons b rest => exact hcons b rest ext

theorem answersOnce_decodeImm8 (mk : Byte → Instr) : AnswersOnce (decodeImm8 mk) :=
  .of_cons rfl fun _ _ _ => .inr rfl

theorem answersOnce_decodePtr (mk : Word → Half → Instr) : AnswersOnce (decodePtr mk) := by
  intro bs ext
  fun_cases decodePtr mk bs with
  | case1 => exact .inr rfl
  | case2 => exact .inl rfl

theorem answersOnce_decodeDisp (mk : Word → Instr) : AnswersOnce (decodeDisp mk) := by
  intro bs ext
  fun_cases decodeDisp mk bs with
  | case1 => exact .inr rfl
  | case2 => exact .inl rfl

theorem answersOnce_decodeRR (mk : BitVec 3 → Reg → Instr) : AnswersOnce (decodeRR mk) :=
  .of_cons rfl fun _ _ _ => .inr rfl

theorem answersOnce_decode0F00 : AnswersOnce decode0F00 :=
  .of_cons rfl fun _ _ _ => .inr rfl

theorem answersOnce_decode0F01 : AnswersOnce decode0F01 := by
  refine .of_cons rfl fun m rest ext => ?_
  simp only [decode0F01]
  split
  case isTrue => exact .inr rfl
  case isFalse =>
    split
    case isFalse => exact .inr rfl
    case isTrue =>
      split
      case h_5 => exact .inr rfl
      all_goals exact answersOnce_decodeDisp _ rest ext

theorem answersOnce_decode0F : AnswersOnce decode0F := by
  refine .of_cons rfl fun op rest ext => ?_
  simp only [decode0F]
  split
  case h_1 => exact answersOnce_decode0F00 rest ext
  case h_2 => exact answersOnce_decode0F01 rest ext
  case h_9 => exact .inr rfl
  all_goals exact answersOnce_decodeRR _ rest ext

theorem answersOnce_decodeBytes : AnswersOnce decodeBytes := by
  refine .of_cons rfl fun op rest ext => ?_
  simp only [decodeBytes]
  split
  case h_4 | h_5 => exact answersOnce_decodePtr _ rest ext
  case h_6 | h_7 | h_8 | h_9 | h_10 => exact answersOnce_decodeImm8 _ rest ext
  case h_16 | h_17 => exact answersOnce_decodeRR _ rest ext
  case h_18 => exact answersOnce_decode0F rest ext
  all_goals exact .inr rfl

/-- Settles O4: an answer before the last byte would be the final one, so the bytes would hold the whole encoding. -/
theorem decoderWaitsForEveryByte : Obligations.DecoderWaitsForEveryByte := by
  intro i k hk
  refine (answersOnce_decodeBytes ((encode i).take k) ((encode i).drop k)).resolve_right fun hfinal => ?_
  rw [List.take_append_drop, decodeBytes_encode] at hfinal
  have hlen := (decodeBytes_done hfinal.symm).length_le
  rw [List.length_take] at hlen
  omega

/-! ## The table's bytes -/

/-- Settles O1: each row's bytes are closed, so the decoder is evaluated on them. -/
theorem decodesTableBytes : Obligations.DecodesTableBytes := by
  unfold Obligations.DecodesTableBytes
  decide

/-! ## Refusals -/

/-- Settles O5: no byte of R101's list is an opcode of the table, and the decoder of every ModR/M form tests `mod`
first, that of `0F 01` then `mod` with `rm`. -/
theorem decoderRefusesByName : Obligations.DecoderRefusesByName := by
  have not_register {m : Byte} (h : m.toNat / 64 ≠ 3) : modOf m ≠ 3 := by
    intro hmod
    rw [← toNat_modOf, hmod] at h
    exact h rfl
  have not_disp32 {m : Byte} (h : ¬ (m.toNat / 64 = 0 ∧ m.toNat % 8 = 5)) : ¬ (modOf m = 0 ∧ rmOf m = 5) := by
    rintro ⟨hmod, hrm⟩
    rw [← toNat_modOf, ← toNat_rmOf, hmod, hrm] at h
    exact h ⟨rfl, rfl⟩
  refine ⟨fun b hb rest => ?_, fun op hop m rest hm => ?_, fun op hop m rest hm => ?_, fun m rest hm hdisp => ?_⟩
  · fin_cases hb <;> rfl
  · fin_cases hop <;> exact if_neg (not_register hm)
  · fin_cases hop <;> exact if_neg (not_register hm)
  · exact (if_neg (not_register hm)).trans (if_neg (not_disp32 hdisp))

end Sys2Proof
end

section
/-! PROOFS. The fetch of the bytes at CS:EIP (O7). -/

namespace Sys2Proof.Machine

/-- Whatever can be fetched, its first bytes can be. -/
theorem State.CodeAt.of_append {s : State} {bs ext : List Byte} (h : s.CodeAt (bs ++ ext)) : s.CodeAt bs := by
  obtain ⟨hoff, hbound, hattr, hbytes⟩ := h
  rw [List.length_append] at hbound hbytes
  refine ⟨hoff, by omega, hattr, fun k hk => ?_⟩
  have hbyte := hbytes k (by omega)
  rwa [List.getElem?_append_left hk] at hbyte

/-- The fetch reaches the last byte of an instruction with fuel left, and that byte alone is still to be fetched. -/
theorem fetch_eq_of_codeAt {s : State} {bs : List Byte} {b : Byte} (hc : s.CodeAt (bs ++ [b]))
    (hgo : FetchGoesOn (bs ++ [b])) :
    ∃ fuel, fetch s = fetchFrom s bs (fuel + 1) ∧ fetchByte s bs.length = .ok (b, s) := by
  have hmore : ∀ k ≤ bs.length, decodeBytes (bs.take k) = .more := by
    intro k hk
    have h := hgo k (hk.trans_lt (by simp))
    rwa [List.take_append_of_le_length hk] at h
  have hlt : bs.length < longestInstr :=
    length_lt_longestInstr_of_more (by simpa using hmore bs.length le_rfl)
  obtain ⟨fuel, hfuel⟩ : ∃ fuel, longestInstr = fuel + 1 + bs.length := ⟨longestInstr - bs.length - 1, by omega⟩
  have hbyte := fetchByte_of_codeAt hc (k := bs.length) (by simp)
  refine ⟨fuel, ?_, by simpa using hbyte⟩
  rw [fetch, hfuel]
  exact fetchFrom_of_codeAt hc.of_append hmore (fuel + 1) bs.length 0 (Nat.zero_add _)

/-- The fetch answers what the decoder says of the bytes at CS:EIP, once it has them all. -/
theorem fetch_of_decodeBytes {s : State} {bs : List Byte} (hc : s.CodeAt bs) (hgo : FetchGoesOn bs) :
    (∀ i, decodeBytes bs = .done i → fetch s = .ok (i, s)) ∧
    ∀ e, decodeBytes bs = .reject e → fetch s = .error (.refuse (refusalOf e)) := by
  obtain rfl | ⟨init, b, rfl⟩ := bs.eq_nil_or_concat'
  · exact ⟨fun _ h => (by cases h), fun _ h => (by cases h)⟩
  · obtain ⟨fuel, hfetch, hbyte⟩ := fetch_eq_of_codeAt hc hgo
    constructor <;> intro x h <;> simp only [hfetch, fetchFrom, hbyte, bind_ok, h]

theorem step_of_fetch_ok {s s1 : State} {i : Instr} (hr : s.ReadyToFetch) (hf : fetch s = .ok (i, s1)) :
    step s = finishStep s1 i (exec i s1) := by
  simp only [step, beforeFetch_eq_none hr, hf]

/-- Settles O7: the decoder's answer is the fetch's, and nothing ends the step before the fetch. -/
theorem stepFetchesBytesAtEip : Obligations.StepFetchesBytesAtEip := by
  intro s hr
  refine ⟨fun i hc => ?_, fun bs hc hgo => ?_⟩
  · have hf := (fetch_of_decodeBytes hc (decoderWaitsForEveryByte i)).1 i (decodeBytes_encode i)
    exact ⟨hf, step_of_fetch_ok hr hf⟩
  · have refused {e : DecodeError} (h : decodeBytes bs = .reject e) : step s = .refused (refusalOf e) :=
      step_of_fetch_error hr ((fetch_of_decodeBytes hc hgo).2 e h)
    exact ⟨refused, refused, refused⟩

end Sys2Proof.Machine
end

section
/-! PROOFS. POPF (O18) and the bits of a popped image (O19), IRET in protected mode (O21) and where it stops (O22), string
steps (O15), far transfers (O23), I/O that the IOPL check passes (O24, O25). -/

namespace Sys2Proof.Machine

/-! ## POPF -/

theorem exec_popf_of_pop {s s1 : State} {image : Word} (ha : s.allowed .flags .load = true)
    (hpop : pop32 s = .ok (image, s1)) :
    exec .popf s = .next ({ s1 with eflags := popFlags s.eflags image s.curCpl }.retireKeepRf 1) := by
  show conclude s _ = _
  simp only [requireAccess_allowed s _ _ ha, hpop, bind_ok, conclude_ok]

/-- Settles O18: the pop reads the image at the mapped addresses. -/
theorem popfLoadsItsImage : Obligations.PopfLoadsItsImage := by
  intro s s1 ps image ha hm hb
  have hexec := exec_popf_of_pop ha (pop32_of_maps hm hb)
  obtain ⟨tlb, draws, rfl⟩ := hm.same.exists_eq
  exact ⟨_, hexec, rfl, Gprs.get_set_same s.gpr .esp _, fun r hr => Gprs.get_set_other s.gpr .esp r _ hr, rfl⟩

/-! ## The bits of a popped image -/

/-- The bits of EFLAGS that POPF and IRET load: ten always, IF and IOPL by privilege (R121). -/
theorem getLsbD_popMask (cpl iopl : BitVec 2) {i : Nat} (hi : i < 32) :
    (popMask cpl iopl).getLsbD i =
      (decide (i ∈ [0, 2, 4, 6, 7, 8, 10, 11, 14, 16]) || (decide (i = 9) && decide (cpl ≤ iopl)) ||
        (decide (i = 12 ∨ i = 13) && decide (cpl = 0))) := by
  have always_bit : ∀ j < 32, popAlwaysMask.getLsbD j = decide (j ∈ [0, 2, 4, 6, 7, 8, 10, 11, 14, 16]) := by decide
  have if_bit : ∀ j < 32, ifMask.getLsbD j = decide (j = 9) := by decide
  have iopl_bits : ∀ j < 32, ioplMask.getLsbD j = decide (j = 12 ∨ j = 13) := by decide
  have guarded_bit (p : Prop) [Decidable p] (m : Word) :
      (if p then m else 0).getLsbD i = (m.getLsbD i && decide p) := by
    split <;> simp [*]
  rw [popMask, BitVec.getLsbD_or, BitVec.getLsbD_or, guarded_bit, guarded_bit, always_bit i hi, if_bit i hi,
    iopl_bits i hi]

/-- IOPL as a number is bits 13:12 of EFLAGS (R25). -/
theorem le_iopl_iff (cpl : BitVec 2) (fl : Word) :
    cpl ≤ fl.extractLsb' 12 2 ↔ cpl.toNat ≤ fl.toNat / 4096 % 4 := by
  rw [BitVec.le_def, BitVec.extractLsb'_toNat, Nat.shiftRight_eq_div_pow]

/-- Settles O19: each bit is the image's where the mask has it and the old one elsewhere. -/
theorem popFlagsByPrivilege : Obligations.PopFlagsByPrivilege := by
  intro old image cpl i hi
  have hlevel0 : cpl.toNat = 0 ↔ cpl = 0 := BitVec.toNat_inj (x := cpl) (y := 0)
  rw [popFlags, getLsbD_mergeBits, getLsbD_popMask _ _ hi]
  by_cases halways : i ∈ [0, 2, 4, 6, 7, 8, 10, 11, 14, 16]
  · simp only [halways, decide_true, Bool.true_or, if_true]
  rw [if_neg halways, decide_eq_false halways, Bool.false_or]
  by_cases hif : i = 9
  · subst hif
    simp [le_iopl_iff]
  by_cases hiopl : i = 12 ∨ i = 13
  · simp [hif, hiopl, hlevel0]
  · simp [hif, hiopl]

/-! ## The frame of IRET -/

/-- The twelve bytes at SS:ESP can be read and hold a frame of EIP, CS and EFLAGS (R122); `u` is the state after the
translations of the three reads. -/
def State.FrameAt (s u : State) (newEip newCs image : Word) : Prop :=
  ∃ (s1 s2 : State) (p1 p2 p3 : List Nat),
    (s.Maps .read .ss (s.r32 .esp) 4 p1 s1 ∧ s.HoldsBytes p1 (toBytesLE newEip.toNat 4)) ∧
    (s1.Maps .read .ss (s.r32 .esp + 4) 4 p2 s2 ∧ s.HoldsBytes p2 (toBytesLE newCs.toNat 4)) ∧
    (s2.Maps .read .ss (s.r32 .esp + 8) 4 p3 u ∧ s.HoldsBytes p3 (toBytesLE image.toNat 4))

section
variable {s u : State} {newEip newCs image : Word}

theorem State.FrameAt.same (hf : s.FrameAt u newEip newCs image) : s.SameButTlb u := by
  obtain ⟨s1, s2, p1, p2, p3, ⟨m1, -⟩, ⟨m2, -⟩, m3, -⟩ := hf
  exact (m1.same.trans m2.same).trans m3.same

/-- Three pops read the frame, each after the translations of the last, and take ESP past it (R120, R122). -/
theorem State.FrameAt.pops (hf : s.FrameAt u newEip newCs image) :
    ∃ t1 t2, pop32 s = .ok (newEip, t1) ∧ pop32 t1 = .ok (newCs, t2) ∧
      pop32 t2 = .ok (image, u.setR32 .esp (s.r32 .esp + 12)) := by
  obtain ⟨s1, s2, p1, p2, p3, ⟨m1, b1⟩, ⟨m2, b2⟩, m3, b3⟩ := hf
  have h8 : s.r32 .esp + 4 + 4 = s.r32 .esp + 8 := BitVec.add_assoc _ _ _
  have h12 : s.r32 .esp + 8 + 4 = s.r32 .esp + 12 := BitVec.add_assoc _ _ _
  have h2 := pop32_setR32_of_maps m1.same m2 b2
  have h3 := pop32_setR32_of_maps (m1.same.trans m2.same) m3 b3
  rw [ofNat_fromBytesLE_toBytesLE] at h2 h3
  rw [h8] at h2
  rw [h12] at h3
  exact ⟨_, _, pop32_of_maps m1 b1, h2, h3⟩

theorem State.curCpl_of_pm (hpm : s.mode = .pm) : s.curCpl = s.cpl := by simp [State.curCpl, hpm]

/-- A frame that would set VM at level 0 is refused before its CS is looked up (R122). -/
theorem returnFrame_sets_vm (hf : s.FrameAt u newEip newCs image) (hpm : s.mode = .pm) (h0 : s.cpl = 0)
    (hvm : image.getLsbD 17 = true) : returnFrame s = .error (.refuse .v86EntryNotModelled) := by
  obtain ⟨t1, t2, h1, h2, h3⟩ := hf.pops
  simp [returnFrame, h1, h2, h3, hpm, State.curCpl_of_pm hpm, h0, hvm]

/-- In protected mode the lookup's descriptor is what a selector load gives (R160). -/
theorem loadSelector_pm_ok {old : SegReg} {sel : Half} {use : SegUse} {b l : Word} {a : Attr} {c : BitVec 2}
    (hpm : s.mode = .pm) (hl : s.lookup sel use = .ok b l a c) :
    loadSelector s old sel use = .ok (⟨sel, b, l, a⟩, c, s.afterLookup) := by
  simp [loadSelector, hpm, hl]

/-- In protected mode the lookup's fault is what a selector load raises (R160). -/
theorem loadSelector_pm_fault {old : SegReg} {sel : Half} {use : SegUse} {v : Byte} (hpm : s.mode = .pm)
    (hl : s.lookup sel use = .fault v) : loadSelector s old sel use = .error (.raise (.exc v)) := by
  simp [loadSelector, hpm, hl]

/-- What a return in protected mode does with the answer of the load of CS: it completes at its own level and is refused
at any other (R122). -/
def State.enterCode (s : State) (newEip image : Word) : SegReg × BitVec 2 × State → Op State
  | (cs, c, w) =>
    if c = s.cpl then
      .ok { w.setSeg .cs cs with eip := newEip, eflags := popFlags s.eflags image s.cpl, stored := [] }
    else .error (.refuse .interLevelReturnNotModelled)

/-- In protected mode the return of any other frame is the load of its CS and what follows from that (R122, R160). -/
theorem returnFrame_pm (hf : s.FrameAt u newEip newCs image) (hpm : s.mode = .pm)
    (hvm : s.cpl = 0 → image.getLsbD 17 = false) :
    returnFrame s = loadSelector (u.setR32 .esp (s.r32 .esp + 12)) (s.seg .cs) (newCs.extractLsb' 0 16) .code >>=
      s.enterCode newEip image := by
  obtain ⟨t1, t2, h1, h2, h3⟩ := hf.pops
  have hkeeps : ¬ (s.mode = .pm ∧ s.cpl = 0 ∧ image.getLsbD 17 = true) := fun ⟨_, h0, h17⟩ => by
    rw [hvm h0] at h17
    cases h17
  simp only [returnFrame, h1, h2, h3, bind_ok, State.curCpl_of_pm hpm, if_neg hkeeps, ne_eq, ite_not]
  rfl

end

/-- Settles O21: the frame is popped, and the lookup of its CS decides. -/
theorem iretInProtectedMode : Obligations.IretInProtectedMode := by
  intro s s1 s2 s3 p1 p2 p3 newEip newCs image m1 b1 m2 b2 m3 b3 hpm hnt hvm
  have hf : s.FrameAt s3 newEip newCs image := ⟨s1, s2, p1, p2, p3, ⟨m1, b1⟩, ⟨m2, b2⟩, m3, b3⟩
  have hsel : newCs.setWidth 16 = newCs.extractLsb' 0 16 := BitVec.setWidth_eq_extractLsb' (by decide)
  have hexec := exec_iret_eq (s := s) (by simp [hpm]) (fun _ => hnt)
  have hpm3 : (s3.setR32 .esp (s.r32 .esp + 12)).mode = .pm := by
    rw [hf.same]
    exact hpm
  rw [returnFrame_pm hf hpm hvm] at hexec
  rw [hsel]
  split
  case h_1 b l a c hl =>
    rw [loadSelector_pm_ok hpm3 hl, bind_ok, State.enterCode] at hexec
    split
    case isTrue hc =>
      have hlook : (s3.setR32 .esp (s.r32 .esp + 12)).afterLookup = _ := afterLookup_gpr s3 _
      rw [if_pos hc, conclude_ok, hlook, afterLookup_eq s3] at hexec
      obtain ⟨tlb, draws, rfl⟩ := hf.same.exists_eq
      exact ⟨_, hexec, rfl, SegFile.get_set_same s.segs .cs _, fun n hn => SegFile.get_set_other s.segs .cs n _ hn, rfl,
        Gprs.get_set_same s.gpr .esp _, fun r hr => Gprs.get_set_other s.gpr .esp r _ hr, rfl⟩
    case isFalse hc =>
      rw [if_neg hc, conclude_refuse] at hexec
      exact hexec
  case h_2 v hl =>
    rw [loadSelector_pm_fault hpm3 hl, bind_error, conclude_raise] at hexec
    exact hexec

/-- Settles O22: the mode and NT stop IRET before its frame is read, VM in the image after. -/
theorem iretStopsByName : Obligations.IretStopsByName := by
  intro s
  refine ⟨fun hv86 => ?_, fun hpm hnt => ?_, ?_⟩
  · show conclude s _ = _
    rw [if_pos hv86, conclude_refuse]
  · have hmode : s.mode ≠ .v86 := by simp [hpm]
    show conclude s _ = _
    rw [if_neg hmode, if_pos ⟨hpm, hnt⟩, conclude_refuse]
  · intro s1 s2 s3 p1 p2 p3 newEip newCs image hpm hnt h0 hvm m1 b1 m2 b2 m3 b3
    rw [exec_iret_eq (by simp [hpm]) (fun _ => hnt),
      returnFrame_sets_vm ⟨s1, s2, p1, p2, p3, ⟨m1, b1⟩, ⟨m2, b2⟩, m3, b3⟩ hpm h0 hvm, conclude_refuse]

/-! ## String steps -/

theorem toNat_stringIndex (df : Bool) {size : Nat} (h : size < 2 ^ 32) (v : Word) :
    (stringIndex df size v).toNat = (v.toNat + if df then 2 ^ 32 - size else size) % 2 ^ 32 := by
  cases df with
  | false => simp [stringIndex]
  | true =>
    simp only [stringIndex, if_true, BitVec.toNat_sub, BitVec.toNat_ofNat, Nat.mod_eq_of_lt h, Nat.add_comm]

section
variable (s : State) (size : Nat) (usesEsi usesEdi : Bool)

theorem State.stringStep_esi : (s.stringStep size usesEsi usesEdi).r32 .esi =
    if usesEsi then stringIndex s.df size (s.r32 .esi) else s.r32 .esi := rfl

theorem State.stringStep_edi : (s.stringStep size usesEsi usesEdi).r32 .edi =
    if usesEdi then stringIndex s.df size (s.r32 .edi) else s.r32 .edi := rfl

theorem State.stringStep_other {r : Reg} (hesi : r ≠ .esi) (hedi : r ≠ .edi) :
    (s.stringStep size usesEsi usesEdi).r32 r = s.r32 r := by
  cases r with
  | esi => exact absurd rfl hesi
  | edi => exact absurd rfl hedi
  | _ => rfl

end

/-- Settles O15: each index a step uses is moved by `stringIndex`, on its own. -/
theorem stringStepFollowsDf : Obligations.StringStepFollowsDf := by
  intro s size usesEsi usesEdi hsize
  have hlt : size < 2 ^ 32 := by
    have hall : ∀ n ∈ [1, 2, 4], n < 2 ^ 32 := by decide
    exact hall size hsize
  have up (v : Word) (hdf : s.df = false) : (stringIndex s.df size v).toNat = (v.toNat + size) % 2 ^ 32 := by
    rw [toNat_stringIndex _ hlt, hdf, if_neg Bool.false_ne_true]
  have down (v : Word) (hdf : s.df = true) :
      (stringIndex s.df size v).toNat = (v.toNat + (2 ^ 32 - size)) % 2 ^ 32 := by
    rw [toNat_stringIndex _ hlt, hdf, if_pos rfl]
  simp only [State.stringStep_esi, State.stringStep_edi]
  refine ⟨fun hdf huse => ?_, fun hdf huse => ?_, fun hdf huse => ?_, fun hdf huse => ?_, fun hunused => ?_,
    fun hunused => ?_, fun r hesi hedi => s.stringStep_other _ _ _ hesi hedi, rfl⟩
  · rw [if_pos huse, up _ hdf]
  · rw [if_pos huse, down _ hdf]
  · rw [if_pos huse, up _ hdf]
  · rw [if_pos huse, down _ hdf]
  · rw [hunused, if_neg Bool.false_ne_true]
  · rw [hunused, if_neg Bool.false_ne_true]

/-! ## Far transfers -/

/-- Settles O23: the spec's pseudocode for each of the three is the refusal (R123). -/
theorem transfersAreRefused : Obligations.TransfersAreRefused := fun _ _ _ _ => ⟨rfl, rfl, rfl⟩

/-! ## I/O that the IOPL check passes -/

theorem requireIo_allowed {s : State} (h : s.IoAllowed) : requireIo s = .ok () := if_pos h

/-- Retiring moves EIP on and clears RF (R19, R23). -/
theorem State.retire_eq_past (s : State) (n : Nat) : s.retire n = s.past (BitVec.ofNat 32 n) := rfl

section
variable {s : State} (h : s.IoAllowed) (n : Nat)
include h

theorem inputAl_allowed :
    inputAl s n = .next ({ s.setR8 .al (s.anyBits 8) with draws := s.draws + 1 }.past (BitVec.ofNat 32 n)) := by
  rw [inputAl, requireIo_allowed h, bind_ok, conclude_ok, State.retire_eq_past]
  rfl

theorem inputEax_allowed :
    inputEax s n = .next ({ s.setR32 .eax (s.anyBits 32) with draws := s.draws + 1 }.past (BitVec.ofNat 32 n)) := by
  rw [inputEax, requireIo_allowed h, bind_ok, conclude_ok, State.retire_eq_past]
  rfl

theorem output_allowed : output s n = .next (s.past (BitVec.ofNat 32 n)) := by
  rw [output, requireIo_allowed h, bind_ok, conclude_ok, State.retire_eq_past]

end

/-- Settles O24: the value is the one drawn. -/
theorem inputsComplete : Obligations.InputsComplete := fun _ _ h =>
  ⟨⟨_, inputAl_allowed h 2⟩, ⟨_, inputAl_allowed h 1⟩, ⟨_, inputEax_allowed h 2⟩, ⟨_, inputEax_allowed h 1⟩⟩

/-- Settles O25: an output is its check and its completion. -/
theorem outputsComplete : Obligations.OutputsComplete := fun _ _ h =>
  ⟨output_allowed h 2, output_allowed h 2, output_allowed h 1, output_allowed h 1⟩

end Sys2Proof.Machine
end


section
/-! PROOFS. The availability table (O40), LMSW (O29), MOV to and from the control registers (O27, O28), WAIT (O30) and
the coprocessor instructions (O31). -/

namespace Sys2Proof.Machine

/-! ## Access by mode -/

section
variable {s : State} {g : RegGroup} {d : Direction}

/-- In RM, where CPL is 0, only a cell that says no denies an access (R70, R72). -/
theorem State.allowed_rm (hm : s.mode = .rm) : s.allowed g d = true ↔ accessCell g .rm d ≠ .no := by
  have hcell : accessCell g .rm d = .yes ∨ accessCell g .rm d = .no ∨ accessCell g .rm d = .level0 := by
    cases g <;> cases d <;> decide
  have hcpl : s.curCpl = 0 := by simp [State.curCpl, hm]
  rw [State.allowed, hm, hcpl]
  obtain h | h | h := hcell <;> simp [h, Cell.allows]

/-- In PM a cell allows an access at every level or at level 0 alone (R70, R72). -/
theorem State.allowed_pm (hm : s.mode = .pm) :
    s.allowed g d = true ↔ accessCell g .pm d = .yes ∨ (accessCell g .pm d = .level0 ∧ s.cpl = 0) := by
  have hcell : accessCell g .pm d = .yes ∨ accessCell g .pm d = .level0 := by
    cases g <;> cases d <;> decide
  rw [State.allowed, hm, State.curCpl_pm hm]
  obtain h | h := hcell <;> simp [h, Cell.allows]

/-- In V86 a cell allows an access always or by IOPL (R70, R71). -/
theorem State.allowed_v86 (hm : s.mode = .v86) :
    s.allowed g d = true ↔ accessCell g .v86 d = .yes ∨ (accessCell g .v86 d = .byIopl ∧ s.iopl = 3) := by
  have hcell : accessCell g .v86 d = .yes ∨ accessCell g .v86 d = .no ∨ accessCell g .v86 d = .byIopl := by
    cases g <;> cases d <;> decide
  rw [State.allowed, hm]
  obtain h | h | h := hcell <;> simp [h, Cell.allows]

end

theorem Direction.forall_iff {p : Direction → Prop} : (∀ d, p d) ↔ p .load ∧ p .store :=
  ⟨fun h => ⟨h _, h _⟩, fun ⟨hload, hstore⟩ d => by cases d <;> assumption⟩

/-- Settles O40: in each mode the table's column is read off. -/
theorem availabilityByMode : Obligations.AvailabilityByMode := by
  intro s
  cases hm : s.mode with
  | rm => simp [State.allowed_rm hm, Direction.forall_iff, accessCell]
  | pm => simp [State.allowed_pm hm, accessCell]
  | v86 => simp [State.allowed_v86 hm, accessCell]

/-! ## Instructions that begin with an access check -/

section
variable {s : State} {g : RegGroup} {d : Direction}

theorem conclude_requireAccess_allowed (f : Unit → Op State) (h : s.allowed g d = true) :
    conclude s (requireAccess s g d >>= f) = conclude s (f ()) := by
  rw [requireAccess_allowed s g d h, bind_ok]

/-- A denied access ends the instruction in the exception of its mode (R203). -/
theorem conclude_requireAccess_denied (f : Unit → Op State) (h : s.allowed g d = false) :
    conclude s (requireAccess s g d >>= f) = .next (s.raised (if s.mode = .rm then 6 else 13)) := by
  rw [conclude_check_raised f (requireAccess_denied s g d h)]
  cases s.mode <;> rfl

end

/-! ## LMSW -/

/-- CR0 after LMSW, bit by bit: the low four come from the operand, PE also from its old value (R142). -/
theorem getLsbD_lmswCr0_of_lt (cr0 : Word) (src : Half) {i : Nat} (hi : i < 32) :
    (lmswCr0 cr0 src).getLsbD i =
      if i < 4 then (decide (i = 0) && cr0.getLsbD 0) || src.getLsbD i else cr0.getLsbD i := by
  have low4 : ∀ j < 32, (0xF : Word).getLsbD j = decide (j < 4) := by decide
  have low1 : ∀ j < 32, (1 : Word).getLsbD j = decide (j = 0) := by decide
  rw [lmswCr0, getLsbD_mergeBits, low4 i hi, BitVec.getLsbD_or, BitVec.getLsbD_and, low1 i hi, BitVec.getLsbD_setWidth]
  by_cases h0 : i = 0
  · subst h0
    simp [Bool.or_comm]
  · simp [h0, hi]

theorem exec_lmsw_allowed {s : State} {rs : Reg} (ha : s.allowed .control .load = true) :
    exec (.lmsw rs) s = .next ({ s with cr0 := lmswCr0 s.cr0 (s.r16 rs) }.past 3) :=
  conclude_requireAccess_allowed _ ha

theorem exec_lmsw_denied {s : State} {rs : Reg} (ha : s.allowed .control .load = false) :
    exec (.lmsw rs) s = .next (s.raised (if s.mode = .rm then 6 else 13)) :=
  conclude_requireAccess_denied _ ha

/-- The bytes of LMSW are those of its encoding (R107). -/
theorem encode_lmsw (rs : Reg) : encode (.lmsw rs) = [0x0F, 0x01, BitVec.ofNat 8 (0xF0 + rs.num.toNat)] := by
  cases rs <;> rfl

/-- Settles O29: the access check is that of a control register load, and the bits are those of `lmswCr0`. -/
theorem lmswLoadsLowBits : Obligations.LmswLoadsLowBits := by
  intro s rs
  obtain ⟨hload, -⟩ := availabilityByMode s
  refine ⟨?_, fun hm => ?_, fun hm => ?_⟩
  · rw [← encode_lmsw, decodeBytes_encode]
  · have hbit {i : Nat} (hi : i < 32) := getLsbD_lmswCr0_of_lt s.cr0 (s.r16 rs) hi
    exact ⟨_, exec_lmsw_allowed (hload.mpr hm), hbit (by decide), hbit (by decide), hbit (by decide),
      hbit (by decide), fun i hi h4 => (hbit hi).trans (if_neg (Nat.not_lt.mpr h4)), rfl⟩
  · have hdenied : s.mode ≠ .rm ∧ s.allowed .control .load = false := by
      rw [← Bool.not_eq_true, hload]
      obtain hv86 | ⟨hpm, hcpl⟩ := hm
      · simp [hv86]
      · simpa [hpm] using hcpl
    obtain ⟨hrm, hfalse⟩ := hdenied
    rw [exec_lmsw_denied hfalse, if_neg hrm]

/-! ## MOV to and from the control registers -/

theorem exec_movR32Cr_allowed {s u : State} {rd : Reg} {n : BitVec 3} {v : Word}
    (ha : s.allowed .control .store = true) (hr : readCr s n = some (v, u)) :
    exec (.movR32Cr rd n) s = .next ((u.setR32 rd v).past 3) := by
  show conclude s _ = _
  rw [hr]
  exact conclude_requireAccess_allowed _ ha

theorem exec_movCrR32_allowed {s : State} {rs : Reg} {n : BitVec 3} {w : Op State}
    (ha : s.allowed .control .load = true) (hw : writeCr s n (s.r32 rs) = some w) :
    exec (.movCrR32 n rs) s = conclude s (w >>= fun u => .ok (u.retire 3)) := by
  show conclude s _ = _
  rw [hw]
  exact conclude_requireAccess_allowed _ ha

theorem exec_movCrR32_completes {s u : State} {rs : Reg} {n : BitVec 3} (ha : s.allowed .control .load = true)
    (hw : writeCr s n (s.r32 rs) = some (.ok u)) : exec (.movCrR32 n rs) s = .next (u.past 3) :=
  exec_movCrR32_allowed ha hw

/-- CR3 as a store reads it, as a number: the page number held, and free low bits (R50). -/
theorem cr3_append_eq (page : BitVec 20) (low : BitVec 12) :
    page ++ low = BitVec.ofNat 32 (page.toNat * 4096 + low.toNat) := by
  have h := congrArg (BitVec.ofNat 32) (toNat_append_eq_add page low)
  rwa [BitVec.ofNat_toNat, BitVec.setWidth_eq] at h

/-- Bits 31:12 of a word as a number (R50). -/
theorem extractLsb'_page_eq (v : Word) : v.extractLsb' 12 20 = BitVec.ofNat 20 (v.toNat / 4096) := by
  apply BitVec.eq_of_toNat_eq
  simp only [toNat_extractLsb'_eq, BitVec.toNat_ofNat, Nat.reducePow]

/-- Settles O27: each number names what `readCr` gives, and the low bits of CR3 are those drawn. -/
theorem controlRegisterStores : Obligations.ControlRegisterStores := by
  intro s rd ha
  refine ⟨exec_movR32Cr_allowed ha rfl, exec_movR32Cr_allowed ha rfl, (s.anyBits 12).toNat, (s.anyBits 12).isLt, ?_⟩
  rw [← cr3_append_eq]
  exact exec_movR32Cr_allowed (u := s.draw) ha rfl

/-- Settles O28: each number names what `writeCr` does, and a load of CR0 that would set PG without PE stops there. -/
theorem controlRegisterLoads : Obligations.ControlRegisterLoads := by
  intro s rs ha
  refine ⟨fun ⟨hpg, hpe⟩ => ?_, fun h => ?_, exec_movCrR32_completes ha rfl, ?_⟩
  · have hstop : loadCr0 s (s.r32 rs) = .error (.refuse .pagingWithoutProtection) :=
      if_pos ⟨hpg, Bool.eq_false_iff.mp hpe⟩
    rw [exec_movCrR32_allowed (n := 0) ha rfl, hstop, bind_error, conclude_refuse]
  · have hok : loadCr0 s (s.r32 rs) = .ok { s with cr0 := s.r32 rs &&& cr0Mask } := by
      refine if_neg fun ⟨hpg, hpe⟩ => ?_
      obtain hnopg | hsetpe := h
      · exact Bool.false_ne_true (hnopg.symm.trans hpg)
      · exact hpe hsetpe
    exact exec_movCrR32_completes (n := 0) ha (congrArg some hok)
  · rw [← extractLsb'_page_eq]
    exact exec_movCrR32_completes ha rfl

/-! ## WAIT and the coprocessor instructions -/

/-- Settles O30: the condition is MP and TS, and EM is not in it. -/
theorem waitTrapsOnMpAndTs : Obligations.WaitTrapsOnMpAndTs := by
  refine ⟨rfl, fun s => ⟨fun h => ?_, fun h => ?_⟩⟩
  · show conclude s _ = _
    rw [if_pos (Bool.and_eq_true_iff.mpr h)]
    rfl
  · show conclude s _ = _
    rw [if_neg (mt Bool.and_eq_true_iff.mp h)]
    rfl

/-- With the default `ESC_TRAP_TS` a coprocessor instruction traps on EM, or on TS with MP (R145). -/
theorem esc_traps_iff (s : State) :
    (s.em || (s.ts == Config.escTrapTS && s.mp)) = true ↔ s.em = true ∨ (s.ts = true ∧ s.mp = true) := by
  simp [Config.escTrapTS]

/-- Settles O31: `esc_traps_iff` decides between the trap and the refusal. -/
theorem escTrapsOnEmOrTsMp : Obligations.EscTrapsOnEmOrTsMp := by
  refine fun s x => ⟨fun h => ?_, fun h => ?_⟩
  · show conclude s _ = _
    rw [if_pos ((esc_traps_iff s).mpr h)]
    rfl
  · show conclude s _ = _
    rw [if_neg (mt (esc_traps_iff s).mp h)]
    rfl

end Sys2Proof.Machine
end

section
/-! PROOFS. LGDT and LIDT (O34), LLDT and LTR with the memory that a descriptor lookup sees (O36), MOV to and from a
segment register (O32, O33), SLDT and STR (O37). -/

namespace Sys2Proof.Machine

/-! ## LGDT and LIDT -/

/-- A table limit survives the way through its two bytes (R86). -/
theorem ofNat_fromBytesLE_toBytesLE_half (v : Half) : BitVec.ofNat 16 (fromBytesLE (toBytesLE v.toNat 2)) = v := by
  have hlt : v.toNat % 256 ^ 2 = v.toNat := Nat.mod_eq_of_lt v.isLt
  rw [fromBytesLE_toBytesLE, hlt, BitVec.ofNat_toNat, BitVec.setWidth_eq]

/-- What SGDT and SIDT store is what LGDT and LIDT load (R106, R161, R162). -/
theorem tableFromImage_tableImage (t : TableReg) : tableFromImage (tableImage t) = t := by
  have hbase : (tableImage t).drop 2 = toBytesLE t.base.toNat 4 := List.drop_left' (toBytesLE_length _ _)
  have hlimit : (tableImage t).take 2 = toBytesLE t.limit.toNat 2 := List.take_left' (toBytesLE_length _ _)
  rw [tableFromImage, hbase, hlimit, ofNat_fromBytesLE_toBytesLE, ofNat_fromBytesLE_toBytesLE_half]

/-- A table load that is allowed and whose bytes can be read goes on with these bytes. -/
theorem conclude_table_read {s u : State} {g : RegGroup} {disp : Word} {bs : List Byte}
    (ha : s.allowed g .load = true) (hread : memRead s .ds disp 6 = .ok (bs, u))
    (load : List Byte × State → Op State) :
    conclude s (requireAccess s g .load >>= fun _ => memRead s .ds disp 6 >>= load) = conclude s (load (bs, u)) := by
  rw [conclude_requireAccess_allowed _ ha, hread, bind_ok]

/-- Settles O34: the bytes read are the image of the register that is loaded. -/
theorem tableRegisterLoads : Obligations.TableRegisterLoads := by
  intro s s1 disp ps limit base hm hb
  have himage : tableFromImage (toBytesLE limit.toNat 2 ++ toBytesLE base.toNat 4) = ⟨base, limit⟩ :=
    tableFromImage_tableImage ⟨base, limit⟩
  have hread := memRead_of_maps hm hb
  obtain ⟨tlb, draws, rfl⟩ := hm.same.exists_eq
  rw [← himage]
  exact ⟨fun ha => conclude_table_read ha hread _, fun ha => conclude_table_read ha hread _⟩

/-! ## LLDT and LTR -/

section
variable {s : State} {g : RegGroup} {sel : Half} {use : SegUse}

/-- A system segment load that is allowed goes on with the lookup's descriptor, and only the translation buffer has
changed (R165, R167). -/
theorem conclude_loadSystem_ok {b l : Word} {a : Attr} {c : BitVec 2} (ha : s.allowed g .load = true)
    (hl : s.lookup sel use = .ok b l a c) (load : SegReg × State → Op State) :
    conclude s (requireAccess s g .load >>= fun _ => loadSystem s sel use >>= load) =
      conclude s (load (⟨sel, b, l, a⟩, { s with tlb := s.afterLookup.tlb })) := by
  rw [conclude_requireAccess_allowed _ ha, loadSystem, hl, bind_ok, ← afterLookup_eq]

/-- A system segment load that is allowed raises what the lookup names (R165, R167). -/
theorem conclude_loadSystem_fault {v : Byte} (ha : s.allowed g .load = true) (hl : s.lookup sel use = .fault v)
    (load : SegReg × State → Op State) :
    conclude s (requireAccess s g .load >>= fun _ => loadSystem s sel use >>= load) = .next (s.raised v) := by
  rw [conclude_requireAccess_allowed _ ha, loadSystem, hl, bind_error, conclude_raise]
  rfl

end

/-! ## The memory that a descriptor lookup sees -/

section
variable {s : State} {a : Word}

theorem State.inDescTables_iff :
    s.inDescTables a = true ↔
      (a - s.gdtr.base).toNat ≤ s.gdtr.limit.toNat ∨ (a - s.ldtr.base).toNat ≤ s.ldtr.limit.toNat := by
  have hlimit : (s.gdtr.limit.setWidth 32).toNat = s.gdtr.limit.toNat := BitVec.toNat_setWidth_of_le (by decide)
  rw [State.inDescTables, Bool.or_eq_true, inTable, inTable, decide_eq_true_iff, decide_eq_true_iff, hlimit]

theorem State.descMemory_outside (h : ¬ s.inDescTables a = true) : s.descMemory a = none := if_neg h

/-- At an address of a table a lookup finds what memory holds at the physical address, where that is installed
(R84, R89). -/
theorem State.descMemory_of_tableAddr {p : Word} (hin : s.inDescTables a = true) (h : s.tableAddr a = some p) :
    s.descMemory a = if s.isInstalled p.toNat then s.mem.byteAt p.toNat else none := by
  rw [State.descMemory, if_pos hin, State.tableByte, h]

/-- With paging off a linear address of a table is its physical one (R84). -/
theorem State.tableAddr_off (hoff : s.pagingOn = false) : s.tableAddr a = some a := by
  rw [State.tableAddr, hoff]
  rfl

/-- With paging on, and nothing else remembered for the page, a lookup takes the walk's translation (R84, R94). -/
theorem State.tableAddr_walk {frame : BitVec 20} (hon : s.pagingOn = true)
    (hfresh : s.staleWalks (a.extractLsb' 12 20) .read s.curCpl = [])
    (hwalk : s.walk (a.extractLsb' 12 20) .read s.curCpl = some frame) :
    s.tableAddr a = some (frame ++ a.extractLsb' 0 12) := by
  simp [State.tableAddr, hon, State.tablePage, State.pickWalk, hfresh, hwalk]

/-- With paging off, memories that agree on the two tables look the same to a lookup (R95, R160). -/
theorem State.descMemory_with_mem {m : Memory} (hoff : s.pagingOn = false)
    (hagree : ∀ a : Word, s.inDescTables a = true → m.byteAt a.toNat = s.mem.byteAt a.toNat) :
    ({ s with mem := m } : State).descMemory = s.descMemory := by
  funext a
  by_cases hin : s.inDescTables a = true
  · rw [State.descMemory_of_tableAddr hin (State.tableAddr_off hoff), ← hagree a hin]
    exact State.descMemory_of_tableAddr (s := { s with mem := m }) hin (State.tableAddr_off hoff)
  · exact (State.descMemory_outside (s := { s with mem := m }) hin).trans (State.descMemory_outside hin).symm

/-- A lookup depends on memory through its view of the tables alone (R160). -/
theorem State.lookup_with_mem {m : Memory} (h : ({ s with mem := m } : State).descMemory = s.descMemory)
    (sel : Half) (use : SegUse) : ({ s with mem := m } : State).lookup sel use = s.lookup sel use :=
  congrArg (Config.descLookup sel use s.curCpl s.gdtr s.ldtr) h

end

/-- Settles O36: the lookup decides what LLDT and LTR do, and its view of memory is read off `descMemory`. -/
theorem systemSegmentLoads : Obligations.SystemSegmentLoads := by
  intro s rs
  refine ⟨fun hpm h0 => ⟨?_, ?_⟩, fun a hgdt hldt => ?_, fun a hin => ⟨fun hoff hinst => ?_, ?_⟩, ?_⟩
  · have ha : s.allowed .ldtr .load = true := (State.allowed_pm hpm).mpr (.inr ⟨rfl, h0⟩)
    cases hl : s.lookup (s.r16 rs) .ldt with
    | ok b l a c => exact conclude_loadSystem_ok ha hl _
    | fault v => exact conclude_loadSystem_fault ha hl _
  · have ha : s.allowed .tr .load = true := (State.allowed_pm hpm).mpr (.inr ⟨rfl, h0⟩)
    cases hl : s.lookup (s.r16 rs) .tss with
    | ok b l a c => exact conclude_loadSystem_ok ha hl _
    | fault v => exact conclude_loadSystem_fault ha hl _
  · refine State.descMemory_outside fun hin => ?_
    obtain h | h := State.inDescTables_iff.mp hin <;> omega
  · rw [State.descMemory_of_tableAddr (State.inDescTables_iff.mpr hin) (State.tableAddr_off hoff), if_pos hinst]
  · intro frame hon hfresh hwalk hinst
    rw [State.descMemory_of_tableAddr (State.inDescTables_iff.mpr hin) (State.tableAddr_walk hon hfresh hwalk),
      if_pos hinst]
  · intro m sel use hoff hagree
    have hview := State.descMemory_with_mem hoff fun a hin => hagree a (State.inDescTables_iff.mp hin)
    exact State.lookup_with_mem hview sel use

/-! ## MOV Sreg, r16 -/

/-- The 8086's load as numbers: the base is 16 times the selector (R18). -/
theorem load8086_eq (old : SegReg) (sel : Half) :
    load8086 old sel = { old with sel := sel, base := BitVec.ofNat 32 (sel.toNat * 16), limit := 0xFFFF } := by
  have hbase : sel.setWidth 32 <<< 4 = BitVec.ofNat 32 (sel.toNat * 16) := by
    refine BitVec.eq_of_toNat_eq ?_
    simp [BitVec.toNat_shiftLeft, Nat.shiftLeft_eq]
  rw [load8086, hbase]

/-- MOV loads SS as a stack segment and every other segment register as a data segment (R169). -/
theorem segMoveUse_eq (n : SegName) : segMoveUse n = if n = .ss then .stack else .data := by cases n <;> rfl

section
variable {s : State} {sreg : BitVec 3} {rs : Reg} {n : SegName} (hn : SegName.ofNum sreg = some n) (hcs : n ≠ .cs)
include hn hcs

/-- A MOV whose selector load answers writes the segment register and retires (R169). -/
theorem exec_movSegR16_ok {v : SegReg} {c : BitVec 2} {u : State}
    (hload : loadSelector s (s.seg n) (s.r16 rs) (segMoveUse n) = .ok (v, c, u)) :
    exec (.movSegR16 sreg rs) s = .next ((u.setSeg n v).past 2) := by
  show execMovSegR16 sreg rs s = _
  simp only [execMovSegR16, hn, if_neg hcs, hload, bind_ok, conclude_ok]
  rfl

/-- A MOV whose selector load raises changes nothing (R169, R214). -/
theorem exec_movSegR16_raises {v : Byte}
    (hload : loadSelector s (s.seg n) (s.r16 rs) (segMoveUse n) = .error (.raise (.exc v))) :
    exec (.movSegR16 sreg rs) s = .next (s.raised v) := by
  show execMovSegR16 sreg rs s = _
  simp only [execMovSegR16, hn, if_neg hcs, hload, bind_error, conclude_raise]
  rfl

end

/-- Settles O32: outside PM the load is the 8086's, in PM the lookup decides. -/
theorem segmentLoads : Obligations.SegmentLoads := by
  intro s sreg rs n hn hcs
  refine ⟨fun hm => ?_, fun hpm => ?_, fun hoff => by rw [afterLookup_off s hoff]⟩
  · rw [← load8086_eq]
    exact exec_movSegR16_ok hn hcs (loadSelector_8086 s _ _ _ hm)
  · rw [← segMoveUse_eq]
    cases hl : s.lookup (s.r16 rs) (segMoveUse n) with
    | ok b l a c =>
      have hload := loadSelector_pm_ok (old := s.seg n) hpm hl
      rw [afterLookup_eq] at hload
      exact exec_movSegR16_ok hn hcs hload
    | fault v => exact exec_movSegR16_raises hn hcs (loadSelector_pm_fault hpm hl)

/-! ## MOV r16, Sreg -/

/-- A register-direct ModR/M byte as a number (R102). -/
theorem modRM_register_eq (reg rm : BitVec 3) : modRM 3 reg rm = BitVec.ofNat 8 (0xC0 + 8 * reg.toNat + rm.toNat) := by
  refine eq_ofNat_of_toNat ?_
  have hmod : (3 : BitVec 2).toNat = 3 := rfl
  rw [modRM, toNat_append_eq_add, toNat_append_eq_add, hmod]
  omega

/-- The numbers of the six segment registers (R104). -/
theorem SegName.ofNum_of_mem {sreg : BitVec 3} {n : SegName}
    (h : (sreg, n) ∈ [(0, SegName.es), (1, .cs), (2, .ss), (3, .ds), (4, .fs), (5, .gs)]) :
    SegName.ofNum sreg = some n := by
  have hall : ∀ p ∈ [((0 : BitVec 3), SegName.es), (1, .cs), (2, .ss), (3, .ds), (4, .fs), (5, .gs)],
      SegName.ofNum p.1 = some p.2 := by decide
  exact hall _ h

theorem segNumberOk_of_six_le : ∀ n : BitVec 3, 6 ≤ n.toNat → segNumberOk n = false := by decide

theorem exec_movR16Seg_named {s : State} {rd : Reg} {sreg : BitVec 3} {n : SegName} (hn : SegName.ofNum sreg = some n) :
    exec (.movR16Seg rd sreg) s = .next ((s.setR16 rd (s.seg n).sel).past 2) := by
  show execMovR16Seg rd sreg s = _
  simp only [execMovR16Seg, hn, conclude_ok]
  rfl

/-- A 16-bit write keeps the upper half of its register (R11). -/
theorem State.upper_setR16 (s : State) (r : Reg) (v : Half) :
    ((s.setR16 r v).r32 r).toNat / 65536 = (s.r32 r).toNat / 65536 := by
  rw [State.setR16, State.r32_setR32_same, toNat_withLow16]
  omega

/-- Settles O33: the store is a 16-bit register write, and the numbers 6 and 7 are ill-formed (O42). -/
theorem segmentStores : Obligations.SegmentStores := by
  intro s rd sreg
  refine ⟨?_, fun n hn => ?_, fun h6 => reservedNumbersRefused s _ (segNumberOk_of_six_le sreg h6)⟩
  · rw [← modRM_register_eq]
    exact decodeBytes_encode (.movR16Seg rd sreg)
  · exact ⟨_, exec_movR16Seg_named (SegName.ofNum_of_mem hn), State.r16_setR16_same s rd _,
      State.upper_setR16 s rd _, fun r hr => State.r32_setR16_other s _ hr, rfl⟩

/-! ## SLDT and STR -/

/-- The bytes of SLDT and STR are those of their encodings (R107). -/
theorem encode_sldt_str (rd : Reg) :
    encode (.sldt rd) = [0x0F, 0x00, BitVec.ofNat 8 (0xC0 + rd.num.toNat)] ∧
    encode (.str rd) = [0x0F, 0x00, BitVec.ofNat 8 (0xC8 + rd.num.toNat)] := by
  simp only [encode, modRM_register_eq]
  exact ⟨rfl, rfl⟩

theorem exec_system_store_allowed {s : State} (rd : Reg) :
    (s.allowed .ldtr .store = true → exec (.sldt rd) s = .next ((s.setR16 rd s.ldtr.sel).past 3)) ∧
    (s.allowed .tr .store = true → exec (.str rd) s = .next ((s.setR16 rd s.tr.sel).past 3)) :=
  ⟨conclude_requireAccess_allowed _, conclude_requireAccess_allowed _⟩

theorem exec_system_store_denied {s : State} (rd : Reg) :
    (s.allowed .ldtr .store = false → exec (.sldt rd) s = .next (s.raised (if s.mode = .rm then 6 else 13))) ∧
    (s.allowed .tr .store = false → exec (.str rd) s = .next (s.raised (if s.mode = .rm then 6 else 13))) :=
  ⟨conclude_requireAccess_denied _, conclude_requireAccess_denied _⟩

/-- LDTR and TR can be stored in PM at every level, and in no other mode (R70). -/
theorem State.allowed_system_store (s : State) :
    s.allowed .ldtr .store = decide (s.mode = .pm) ∧ s.allowed .tr .store = decide (s.mode = .pm) := by
  unfold State.allowed
  cases s.mode <;> exact ⟨rfl, rfl⟩

/-- Settles O37: the access check of each instruction is one of the mode. -/
theorem systemSegmentStores : Obligations.SystemSegmentStores := by
  intro s rd
  obtain ⟨hsldt, hstr⟩ := encode_sldt_str rd
  obtain ⟨sldt_ok, str_ok⟩ := exec_system_store_allowed (s := s) rd
  obtain ⟨sldt_denied, str_denied⟩ := exec_system_store_denied (s := s) rd
  obtain ⟨hldtr, htr⟩ := s.allowed_system_store
  rw [← hsldt, ← hstr]
  have denied (hm : s.mode ≠ .pm) := And.intro (sldt_denied (by simp [hldtr, hm])) (str_denied (by simp [htr, hm]))
  refine ⟨decodeBytes_encode _, decodeBytes_encode _, fun hm => ?_, fun hm => ?_, fun hm => ?_⟩
  · exact ⟨sldt_ok (by simp [hldtr, hm]), str_ok (by simp [htr, hm])⟩
  · have h := denied (by simp [hm])
    rwa [if_pos hm] at h
  · have h := denied (by simp [hm])
    rwa [if_neg (by simp [hm])] at h

end Sys2Proof.Machine
end

section
/-! PROOFS. MOV to and from the debug registers (O38) and the test registers (O39). -/

namespace Sys2Proof.Machine

section
variable {s u : State} {r : Reg} {n : BitVec 3} {v : Word}

/-! ## MOV to and from the debug registers -/

/-- A store of a debug register that is allowed writes what `readDr` gives and retires (R180). -/
theorem exec_movR32Dr_allowed (ha : s.allowed .debug .store = true) (hr : s.readDr n = some v) :
    exec (.movR32Dr r n) s = .next ((s.setR32 r v).past 3) := by
  show conclude s _ = _
  rw [hr]
  exact conclude_requireAccess_allowed _ ha

/-- A load of a debug register that is allowed leaves what `writeDr` makes of the state and retires (R181). -/
theorem exec_movDrR32_allowed (ha : s.allowed .debug .load = true) (hw : s.writeDr n (s.r32 r) = some u) :
    exec (.movDrR32 n r) s = .next (u.past 3) := by
  show conclude s _ = _
  rw [hw]
  exact conclude_requireAccess_allowed _ ha

/-! ## MOV to and from the test registers -/

/-- A store of a test register that is allowed writes what `readTr` gives and retires (R182). -/
theorem exec_movR32Tr_allowed (ha : s.allowed .test .store = true) (hr : s.readTr n = some v) :
    exec (.movR32Tr r n) s = .next ((s.setR32 r v).past 3) := by
  show conclude s _ = _
  rw [hr]
  exact conclude_requireAccess_allowed _ ha

/-- A load of a test register that is allowed leaves what `writeTr` makes of the state and retires (R183). -/
theorem exec_movTrR32_allowed (ha : s.allowed .test .load = true) (hw : s.writeTr n (s.r32 r) = some u) :
    exec (.movTrR32 n r) s = .next (u.past 3) := by
  show conclude s _ = _
  rw [hw]
  exact conclude_requireAccess_allowed _ ha

end

/-! ## The statements -/

/-- Settles O38: each number names what `readDr` gives and what `writeDr` writes, with the masks of DR6 and DR7. -/
theorem debugRegisterMoves : Obligations.DebugRegisterMoves := by
  refine fun s r => ⟨fun ha => ?_, fun ha => ?_⟩
  · have store {n : BitVec 3} {v : Word} (hr : s.readDr n = some v) := exec_movR32Dr_allowed (r := r) ha hr
    exact ⟨store rfl, store rfl, store rfl, store rfl, store rfl, store rfl⟩
  · have load {n : BitVec 3} {u : State} (hw : s.writeDr n (s.r32 r) = some u) := exec_movDrR32_allowed ha hw
    exact ⟨load rfl, load rfl, load rfl, load rfl, load rfl, load rfl⟩

/-- Settles O39: TR6 and TR7 are what `readTr` gives and what `writeTr` writes, whole. -/
theorem testRegisterMoves : Obligations.TestRegisterMoves := by
  refine fun s r => ⟨fun ha => ?_, fun ha => ?_⟩
  · exact ⟨exec_movR32Tr_allowed ha rfl, exec_movR32Tr_allowed ha rfl⟩
  · exact ⟨exec_movTrR32_allowed ha rfl, exec_movTrR32_allowed ha rfl⟩

end Sys2Proof.Machine
end

section
/-! PROOFS. Which instructions change memory, and where (O48). -/

namespace Sys2Proof.Machine

/-! ## What keeps memory -/

theorem State.SameButTlb.mem {s u : State} (h : s.SameButTlb u) : u.mem = s.mem := by rw [h]

theorem State.takeException_mem (s : State) (c : TrapCause) : (s.takeException c).mem = s.mem := by
  rw [State.takeException_eq]

theorem pop32_mem {s t : State} {v : Word} (h : pop32 s = .ok (v, t)) : t.mem = s.mem := by
  obtain ⟨u, g, hu, rfl⟩ := pop32_same h
  exact hu.mem

theorem writeCr_mem {s t : State} {n : BitVec 3} {v : Word} (h : writeCr s n v = some (.ok t)) : t.mem = s.mem := by
  obtain ⟨-, rfl⟩ | rfl | rfl := writeCr_ok h <;> rfl

theorem writeDr_mem {s t : State} {n : BitVec 3} {v : Word} (h : s.writeDr n v = some t) : t.mem = s.mem := by
  obtain ⟨d0, d1, d2, d3, rfl⟩ | ⟨-, rfl⟩ | rfl := writeDr_some h <;> rfl

theorem writeTr_mem {s t : State} {n : BitVec 3} {v : Word} (h : s.writeTr n v = some t) : t.mem = s.mem := by
  rw [writeTr_some h]

/-- An instruction with a next state keeps memory, by raising an exception, or its operations answer (R88, R214). -/
theorem mem_or_ok_of_conclude {s t : State} {r : Op State} (h : conclude s r = .next t) :
    t.mem = s.mem ∨ r = .ok t := by
  obtain hr | ⟨c, -, rfl⟩ := (conclude_next_iff s t r).mp h
  · exact .inr hr
  · exact .inl (s.takeException_mem c)

/-! ## Operations whose answer has the memory of the state before -/

/-- If the operation answers a state, its memory is that of `s`. -/
def KeepsMem (s : State) (r : Op State) : Prop := ∀ t, r = .ok t → t.mem = s.mem

section
variable {s t u : State} {r : Op State}

theorem mem_of_conclude (h : conclude s r = .next t) (hr : KeepsMem s r) : t.mem = s.mem :=
  (mem_or_ok_of_conclude h).elim id (hr t)

theorem KeepsMem.ok (h : u.mem = s.mem) : KeepsMem s (.ok u) := by
  rintro _ ⟨⟩
  exact h

theorem KeepsMem.retired {n : Nat} (h : u.mem = s.mem) : KeepsMem s (.ok (u.retire n)) := .ok h

theorem KeepsMem.error (x : Halt) : KeepsMem s (.error x) := nofun

/-- What follows an operation need only be looked at where that operation answers. -/
theorem KeepsMem.bind {α : Type} {x : Op α} {f : α → Op State} (hf : ∀ a, x = .ok a → KeepsMem s (f a)) :
    KeepsMem s (x >>= f) := by
  intro t ht
  obtain ⟨a, ha, ht⟩ := (bind_eq_ok x f t).mp ht
  exact hf a ha t ht

theorem KeepsMem.checked {check : Op Unit} (hr : KeepsMem s r) : KeepsMem s (check >>= fun _ => r) :=
  .bind fun _ _ => hr

theorem keepsMem_returnFrame (s : State) : KeepsMem s (returnFrame s) := by
  refine .bind fun (_, _) h1 => .bind fun (_, _) h2 => .bind fun (_, _) h3 => ?_
  have hpops := (pop32_mem h3).trans ((pop32_mem h2).trans (pop32_mem h1))
  dsimp only
  split
  · exact .error _
  · refine .bind fun (_, _, _) hload => ?_
    dsimp only
    split
    · exact .error _
    · exact .ok ((loadSelector_ok hload).1.mem.trans hpops)

/-- Every instruction but PUSHF, SGDT and SIDT keeps memory, whether it completes or raises an exception (R194). -/
theorem exec_mem {i : Instr} (h : exec i s = .next t) (hpushf : i ≠ .pushf)
    (htable : ∀ d, i ≠ .sgdt d ∧ i ≠ .sidt d) : t.mem = s.mem := by
  cases i with
  | pushf => exact absurd rfl hpushf
  | sgdt d => exact absurd rfl (htable d).1
  | sidt d => exact absurd rfl (htable d).2
  | jmpFar | callFar | intImm => cases h
  | inAlImm | inEaxImm | outImmAl | outImmEax | inAlDx | inEaxDx | outDxAl | outDxEax | lmsw | sldt | str =>
    exact mem_of_conclude h (.checked (.retired rfl))
  | popf => exact mem_of_conclude h (.checked (.bind fun (_, _) hpop => .ok (pop32_mem hpop :)))
  | lgdt | lidt => exact mem_of_conclude h (.checked (.bind fun (_, _) hread => .retired (memRead_ok hread).1.mem))
  | lldt | ltr => exact mem_of_conclude h (.checked (.bind fun (_, _) hload => .retired (loadSystem_ok hload).mem))
  | iret =>
    refine mem_of_conclude h ?_
    split
    · exact .error _
    · split
      · exact .error _
      · exact keepsMem_returnFrame s
  | wait | movR16Seg =>
    refine mem_of_conclude h ?_
    split
    · exact .error _
    · exact .retired rfl
  | esc =>
    refine mem_of_conclude h ?_
    split <;> exact .error _
  | movSegR16 =>
    refine mem_of_conclude h ?_
    split
    · exact .error _
    · split
      · exact .error _
      · exact .bind fun (_, _, _) hload => .retired (loadSelector_ok hload).1.mem
  | movR32Cr =>
    refine mem_of_conclude h ?_
    split
    · exact .error _
    · next hread => exact .checked (.retired (readCr_some hread).mem)
  | movR32Dr | movR32Tr =>
    refine mem_of_conclude h ?_
    split
    · exact .error _
    · exact .checked (.retired rfl)
  | movCrR32 =>
    refine mem_of_conclude h ?_
    split
    · exact .error _
    · next hwrite => exact .checked (.bind fun _ hw => .retired (writeCr_mem (hw ▸ hwrite)))
  | movDrR32 =>
    refine mem_of_conclude h ?_
    split
    · exact .error _
    · next hwrite => exact .checked (.retired (writeDr_mem hwrite))
  | movTrR32 =>
    refine mem_of_conclude h ?_
    split
    · exact .error _
    · next hwrite => exact .checked (.retired (writeTr_mem hwrite))

end

/-! ## Where a store goes -/

section
variable {s t s1 : State} {ps : List Nat} {a : Nat}

/-- A memory write changes no byte but those its address translates to (R86, R87). -/
theorem memWrite_byteAt {n : SegName} {off : Word} {bs : List Byte} (h : memWrite s n off bs = .ok t)
    (htr : translateRange s .write (linearAddr (s.seg n) off) bs.length = .ok (ps, s1)) (ha : a ∉ ps) :
    t.mem.byteAt a = s.mem.byteAt a := by
  obtain ⟨qs, u, htr', rfl, hu, -⟩ := memWrite_ok h
  cases htr.symm.trans htr'
  rw [State.storePhys_mem, hu.mem]
  exact Memory.byteAt_setBytes_other _ _ _ _ ha

theorem push32_byteAt {v : Word} (h : push32 s v = .ok t)
    (htr : translateRange s .write (linearAddr (s.seg .ss) (s.r32 .esp - 4)) 4 = .ok (ps, s1)) (ha : a ∉ ps) :
    t.mem.byteAt a = s.mem.byteAt a := by
  obtain ⟨u, hw, rfl⟩ := push32_ok h
  have hkept := memWrite_byteAt hw (by rwa [toBytesLE_length]) ha
  exact hkept

theorem exec_pushf_byteAt (h : exec .pushf s = .next t)
    (htr : translateRange (pushfValue s).2 .write (linearAddr (s.seg .ss) (s.r32 .esp - 4)) 4 = .ok (ps, s1))
    (ha : a ∉ ps) : t.mem.byteAt a = s.mem.byteAt a := by
  obtain hmem | h := mem_or_ok_of_conclude h
  · rw [hmem]
  · simp only [bind_eq_ok] at h
    obtain ⟨_, -, u, hpush, ht⟩ := h
    cases ht
    have hsame := pushfValue_same s
    rw [← hsame.r32 .esp, ← show (pushfValue s).2.seg .ss = s.seg .ss by rw [hsame]; rfl] at htr
    exact (push32_byteAt hpush htr ha).trans (by rw [hsame.mem])

/-- What SGDT and SIDT do: a write of six bytes at DS:disp and nothing else in memory (R162, R164). -/
theorem table_store_byteAt {d : Word} {v : TableReg}
    (h : conclude s (memWrite s .ds d (tableImage v) >>= fun u => .ok (u.retire 7)) = .next t)
    (htr : translateRange s .write (linearAddr (s.seg .ds) d) 6 = .ok (ps, s1)) (ha : a ∉ ps) :
    t.mem.byteAt a = s.mem.byteAt a := by
  obtain hmem | h := mem_or_ok_of_conclude h
  · rw [hmem]
  · obtain ⟨u, hw, ht⟩ := (bind_eq_ok _ _ _).mp h
    cases ht
    have hkept := memWrite_byteAt hw (by rwa [tableImage_length]) ha
    exact hkept

end

/-- Settles O48: no other instruction writes memory, and the three that do write it through the translation given. -/
theorem onlyStoresChangeMemory : Obligations.OnlyStoresChangeMemory := by
  intro s t i h
  refine ⟨exec_mem h, ?_, ?_⟩
  · rintro rfl ps s1 htr a ha
    exact exec_pushf_byteAt h htr ha
  · intro d hi ps s1 htr a ha
    obtain ⟨hsgdt, hsidt⟩ := exec_table_store s d
    obtain rfl | rfl := hi
    · exact table_store_byteAt (hsgdt ▸ h) htr ha
    · exact table_store_byteAt (hsidt ▸ h) htr ha

end Sys2Proof.Machine
end

section
/-! PROOFS. Mode changes (O44), denied register accesses (O41) and precise exceptions (O45). -/

namespace Sys2Proof.Machine

/-! ## What decides the mode -/

section
variable {s t u : State} {i : Instr}

/-- The mode depends on PE and VM alone (R2). -/
theorem State.mode_congr (hpe : t.pe = s.pe) (hvm : t.vm = s.vm) : t.mode = s.mode := by
  rw [State.mode, State.mode, hpe, hvm]

theorem State.mode_eq_rm_iff : s.mode = .rm ↔ s.pe = false := by
  unfold State.mode
  cases s.pe <;> cases s.vm <;> simp

theorem State.mode_eq_pm_iff : s.mode = .pm ↔ s.pe = true ∧ s.vm = false := by
  unfold State.mode
  cases s.pe <;> cases s.vm <;> simp

/-- What an instruction does to PE, VM and the CPL component: VM and CPL stay, and PE too, unless a load of the control
registers is allowed and the instruction loads CR0 or, where PE is clear, is LMSW (R142, R216, R217). -/
structure KeepsMode (s : State) (i : Instr) (t : State) : Prop where
  cpl : t.cpl = s.cpl
  vm : t.vm = s.vm
  pe : t.pe = s.pe ∨ (s.allowed .control .load = true ∧
    ((∃ r, i = .movCrR32 0 r) ∨ ((∃ r, i = .lmsw r) ∧ s.pe = false)))

theorem KeepsMode.of_eq (hcpl : t.cpl = s.cpl) (hvm : t.vm = s.vm) (hpe : t.pe = s.pe) : KeepsMode s i t :=
  ⟨hcpl, hvm, .inl hpe⟩

theorem KeepsMode.retire (h : KeepsMode s i u) (n : Nat) : KeepsMode s i (u.retire n) :=
  ⟨h.cpl, (u.retire_vm n).trans h.vm, h.pe⟩

/-- A load of CR2 or CR3 keeps CR0, and no load of a control register touches CPL or EFLAGS (R141). -/
theorem writeCr_keeps {n : BitVec 3} {v : Word} (h : writeCr s n v = some (.ok t)) :
    t.cpl = s.cpl ∧ t.vm = s.vm ∧ (n = 0 ∨ t.pe = s.pe) := by
  obtain ⟨hcpl, hvm⟩ : t.cpl = s.cpl ∧ t.vm = s.vm := by
    obtain ⟨-, rfl⟩ | rfl | rfl := writeCr_ok h <;> exact ⟨rfl, rfl⟩
  refine ⟨hcpl, hvm, ?_⟩
  unfold writeCr at h
  split at h
  case h_1 hn => exact .inl (BitVec.eq_of_toNat_eq hn)
  case h_2 | h_3 =>
    cases h
    exact .inr rfl
  case h_4 => cases h

/-- LMSW never clears PE (R142). -/
theorem lmsw_pe (src : Half) (hpe : s.pe = true) : ({ s with cr0 := lmswCr0 s.cr0 src } : State).pe = s.pe :=
  ((getLsbD_lmswCr0 s.cr0 src).1 hpe).trans hpe.symm

theorem Writes.keepsMode (hw : Writes s i u) : KeepsMode s i u := by
  cases hw with
  | general hu | store hu | segment hu | gdtr _ hu | idtr _ hu | ldtr _ hu | tr _ hu =>
    obtain ⟨tlb, draws, rfl⟩ := hu.exists_eq
    exact .of_eq rfl rfl rfl
  | @control n r _ ha hw =>
    obtain ⟨hcpl, hvm, rfl | hpe⟩ := writeCr_keeps hw
    · exact ⟨hcpl, hvm, .inr ⟨ha, .inl ⟨r, rfl⟩⟩⟩
    · exact .of_eq hcpl hvm hpe
  | @lmsw r ha =>
    cases hpe : s.pe with
    | true => exact .of_eq rfl rfl (lmsw_pe _ hpe)
    | false => exact ⟨rfl, rfl, .inr ⟨ha, .inr ⟨⟨r, rfl⟩, hpe⟩⟩⟩
  | debug _ hw => obtain ⟨_, _, _, _, rfl⟩ | ⟨-, rfl⟩ | rfl := writeDr_some hw <;> exact .of_eq rfl rfl rfl
  | test _ hw =>
    rw [writeTr_some hw]
    exact .of_eq rfl rfl rfl

theorem exec_keepsMode (h : exec i s = .next t) : KeepsMode s i t := by
  obtain ⟨c, rfl⟩ | hc := exec_next h
  · rw [State.takeException_eq]
    exact .of_eq rfl rfl rfl
  · cases hc with
    | retired hw => exact hw.keepsMode.retire _
    | popf hu image | iret hu image =>
      obtain ⟨tlb, draws, rfl⟩ := hu.exists_eq
      exact .of_eq rfl (getLsbD_popFlags_vm _ _ _) rfl

end

/-- Settles O44: VM and the CPL component stay, and PE changes only behind the access check of a control register load,
which V86 mode and the levels 1 to 3 do not pass. -/
theorem modeChanges : Obligations.ModeChanges := by
  intro s t i hlegal h
  obtain ⟨hcpl, hvm, hpe | ⟨ha, hload⟩⟩ := exec_keepsMode h
  · rw [State.mode_congr hpe hvm]
    exact ⟨hcpl, .inl, .inl, id⟩
  · have rm_or_pm (hv : s.vm = false) : t.mode = .rm ∨ t.mode = .pm := by
      rw [State.mode_eq_rm_iff, State.mode_eq_pm_iff, hvm, hv]
      cases t.pe <;> simp
    obtain ⟨hallowed, -⟩ := availabilityByMode s
    refine ⟨hcpl, fun hrm => ?_, fun hpm => ?_, fun hv86 => ?_⟩
    · have hclear := State.mode_eq_rm_iff.mp hrm
      refine (rm_or_pm (hlegal.resolve_right (by simp [hclear]))).imp_right fun hpm => ⟨hpm, ?_⟩
      obtain ⟨r, hr⟩ | ⟨⟨r, hr⟩, -⟩ := hload
      · exact ⟨r, .inr hr⟩
      · exact ⟨r, .inl hr⟩
    · obtain ⟨hset, hv⟩ := State.mode_eq_pm_iff.mp hpm
      have h0 : s.cpl = 0 := by simpa [hpm] using hallowed.mp ha
      refine (rm_or_pm hv).symm.imp_right fun hrm => ⟨hrm, h0, ?_⟩
      exact hload.resolve_right fun ⟨_, hclear⟩ => by simp [hset] at hclear
    · simp [hallowed, hv86] at ha

/-! ## Denied accesses -/

/-- The control register numbers that hold state (R48). -/
theorem crNumber_exists : ∀ n : BitVec 3, crNumberOk n = true → n = 0 ∨ n = 2 ∨ n = 3 := by decide

/-- The debug register numbers that hold state (R54). -/
theorem drNumber_exists :
    ∀ n : BitVec 3, drNumberOk n = true → n = 0 ∨ n = 1 ∨ n = 2 ∨ n = 3 ∨ n = 6 ∨ n = 7 := by decide

/-- The test register numbers that hold state (R69). -/
theorem trNumber_exists : ∀ n : BitVec 3, trNumberOk n = true → n = 6 ∨ n = 7 := by decide

section
variable {s : State} {n : BitVec 3} {r : Reg}

/-- The moves of a control register that exists come to their access check, which ends them when it denies (R203). -/
theorem exec_movCr_denied (hn : crNumberOk n = true) :
    (s.allowed .control .store = false → exec (.movR32Cr r n) s = .next (s.raised (if s.mode = .rm then 6 else 13))) ∧
    (s.allowed .control .load = false →
      exec (.movCrR32 n r) s = .next (s.raised (if s.mode = .rm then 6 else 13))) := by
  obtain rfl | rfl | rfl := crNumber_exists n hn <;>
    exact ⟨conclude_requireAccess_denied _, conclude_requireAccess_denied _⟩

/-- Likewise for the debug registers. -/
theorem exec_movDr_denied (hn : drNumberOk n = true) :
    (s.allowed .debug .store = false → exec (.movR32Dr r n) s = .next (s.raised (if s.mode = .rm then 6 else 13))) ∧
    (s.allowed .debug .load = false → exec (.movDrR32 n r) s = .next (s.raised (if s.mode = .rm then 6 else 13))) := by
  obtain rfl | rfl | rfl | rfl | rfl | rfl := drNumber_exists n hn <;>
    exact ⟨conclude_requireAccess_denied _, conclude_requireAccess_denied _⟩

/-- Likewise for the test registers. -/
theorem exec_movTr_denied (hn : trNumberOk n = true) :
    (s.allowed .test .store = false → exec (.movR32Tr r n) s = .next (s.raised (if s.mode = .rm then 6 else 13))) ∧
    (s.allowed .test .load = false → exec (.movTrR32 n r) s = .next (s.raised (if s.mode = .rm then 6 else 13))) := by
  obtain rfl | rfl := trNumber_exists n hn <;>
    exact ⟨conclude_requireAccess_denied _, conclude_requireAccess_denied _⟩

end

/-- Settles O41: each form is its access check and what follows it; a numbered register comes to the check because it
exists. -/
theorem deniedAccessTraps : Obligations.DeniedAccessTraps := by
  rintro s i g d hwf ⟨r, n, disp, hform⟩ hd
  rcases hform with ⟨rfl, rfl, rfl⟩ | ⟨rfl, rfl, rfl⟩ | ⟨rfl, rfl, rfl⟩ | ⟨rfl, rfl, rfl⟩ | ⟨rfl, rfl, rfl⟩ |
    ⟨rfl, rfl, rfl⟩ | ⟨rfl, rfl, rfl⟩ | ⟨rfl, rfl, rfl⟩ | ⟨rfl, rfl, rfl⟩ | ⟨rfl, rfl, rfl⟩ | ⟨rfl, rfl, rfl⟩ |
    ⟨rfl, rfl, rfl⟩ | ⟨rfl, rfl, rfl⟩ | ⟨rfl, rfl, rfl⟩ | ⟨rfl, rfl, rfl⟩
  · exact (exec_movCr_denied hwf).1 hd
  · exact (exec_movCr_denied hwf).2 hd
  · exact exec_lmsw_denied hd
  · exact conclude_requireAccess_denied _ hd
  · exact conclude_requireAccess_denied _ hd
  · exact conclude_requireAccess_denied _ hd
  · exact (exec_system_store_denied r).1 hd
  · exact conclude_requireAccess_denied _ hd
  · exact (exec_system_store_denied r).2 hd
  · exact (exec_movDr_denied hwf).1 hd
  · exact (exec_movDr_denied hwf).2 hd
  · exact (exec_movTr_denied hwf).1 hd
  · exact (exec_movTr_denied hwf).2 hd
  · exact conclude_requireAccess_denied _ hd
  · exact conclude_requireAccess_denied _ hd

/-! ## The exceptions an instruction can raise -/

/-- The causes an instruction can raise itself; the debug exception and the external interrupt are taken by the step
(R204, R208, R209). -/
def TrapCause.OfInstr : TrapCause → Prop
  | .exc _ | .pageMiss _ => True
  | .debugException | .externalInterrupt => False

/-- The halts an operation of an instruction can have. -/
def Halt.OfInstr : Halt → Prop
  | .raise c => c.OfInstr
  | .fault _ | .refuse _ => True

/-- Whenever the operation halts, it halts in an instruction's own way. -/
def HaltsOfInstr {α : Type} (x : Op α) : Prop := ∀ h, x = .error h → h.OfInstr

section
variable {α β : Type}

theorem HaltsOfInstr.ok (a : α) : HaltsOfInstr (.ok a : Op α) := nofun

theorem HaltsOfInstr.error {h : Halt} (hh : h.OfInstr) : HaltsOfInstr (.error h : Op α) := by
  rintro _ ⟨⟩
  exact hh

theorem HaltsOfInstr.bind {x : Op α} {f : α → Op β} (hx : HaltsOfInstr x) (hf : ∀ a, HaltsOfInstr (f a)) :
    HaltsOfInstr (x >>= f) := by
  intro h hh
  obtain hh | ⟨a, -, hh⟩ := (bind_eq_error x f h).mp hh
  · exact hx h hh
  · exact hf a h hh

/-- A choice between two operations, by a condition. -/
theorem HaltsOfInstr.ite {p : Prop} [Decidable p] {x y : Op α} (hx : HaltsOfInstr x) (hy : HaltsOfInstr y) :
    HaltsOfInstr (if p then x else y) := by
  split <;> assumption

theorem haltsOfInstr_requireAccess (s : State) (g : RegGroup) (d : Direction) :
    HaltsOfInstr (requireAccess s g d) := by
  refine .ite (.ok _) (.error ?_)
  cases s.mode <;> trivial

theorem haltsOfInstr_requireIo (s : State) : HaltsOfInstr (requireIo s) := .ite (.ok _) (.error trivial)

theorem haltsOfInstr_checkSeg (s : State) (g : SegReg) (off n : Nat) (k : AccessKind) :
    HaltsOfInstr (checkSeg s g off n k) := .ite (.ok _) (.error trivial)

theorem haltsOfInstr_translate (s : State) (k : AccessKind) (lin : Word) : HaltsOfInstr (translate s k lin) := by
  intro h hh
  obtain ⟨rfl, -⟩ := translate_error hh
  trivial

theorem haltsOfInstr_translateRange (s : State) (k : AccessKind) (lin : Word) (n : Nat) :
    HaltsOfInstr (translateRange s k lin n) := by
  intro h hh
  obtain ⟨i, -, rfl⟩ := translateRange_error hh
  trivial

theorem haltsOfInstr_readPhysList (s : State) (ps : List Nat) : HaltsOfInstr (readPhysList s ps) := by
  intro h hh
  obtain ⟨f, rfl⟩ := readPhysList_error hh
  trivial

theorem haltsOfInstr_requireInstalled (s : State) (ps : List Nat) : HaltsOfInstr (requireInstalled s ps) := by
  induction ps with
  | nil => exact .ok _
  | cons a as ih => exact .ite ih (.error trivial)

theorem haltsOfInstr_memRead (s : State) (n : SegName) (off : Word) (count : Nat) :
    HaltsOfInstr (memRead s n off count) :=
  (haltsOfInstr_checkSeg _ _ _ _ _).bind fun _ => (haltsOfInstr_translateRange _ _ _ _).bind fun _ =>
    (haltsOfInstr_readPhysList _ _).bind fun _ => .ok _

theorem haltsOfInstr_memWrite (s : State) (n : SegName) (off : Word) (bs : List Byte) :
    HaltsOfInstr (memWrite s n off bs) :=
  (haltsOfInstr_checkSeg _ _ _ _ _).bind fun _ => (haltsOfInstr_translateRange _ _ _ _).bind fun _ =>
    (haltsOfInstr_requireInstalled _ _).bind fun _ => .ok _

theorem haltsOfInstr_push32 (s : State) (v : Word) : HaltsOfInstr (push32 s v) :=
  (haltsOfInstr_memWrite _ _ _ _).bind fun _ => .ok _

theorem haltsOfInstr_pop32 (s : State) : HaltsOfInstr (pop32 s) :=
  (haltsOfInstr_memRead _ _ _ _).bind fun _ => .ok _

theorem haltsOfInstr_loadSelector (s : State) (old : SegReg) (sel : Half) (use : SegUse) :
    HaltsOfInstr (loadSelector s old sel use) := by
  unfold loadSelector
  split
  · exact .ok _
  · exact .ok _
  · split
    · exact .ok _
    · exact .error trivial

theorem haltsOfInstr_loadSystem (s : State) (sel : Half) (use : SegUse) : HaltsOfInstr (loadSystem s sel use) := by
  unfold loadSystem
  split
  · exact .ok _
  · exact .error trivial

theorem haltsOfInstr_writeCr {n : BitVec 3} {v : Word} {w : Op State} (h : writeCr s n v = some w) :
    HaltsOfInstr w := by
  unfold writeCr at h
  split at h
  case h_1 =>
    cases h
    exact .ite (.error trivial) (.ok _)
  case h_2 | h_3 =>
    cases h
    exact .ok _
  case h_4 => cases h

end

/-! ## What an instruction leaves of the trap cause -/

theorem State.SameButTlb.trapped {s u : State} (h : s.SameButTlb u) : u.trapped = s.trapped := by rw [h]

theorem memWrite_trapped {s t : State} {n : SegName} {off : Word} {bs : List Byte} (h : memWrite s n off bs = .ok t) :
    t.trapped = s.trapped := by
  obtain ⟨ps, u, -, rfl, hu, -⟩ := memWrite_ok h
  exact hu.trapped

theorem push32_trapped {s t : State} {v : Word} (h : push32 s v = .ok t) : t.trapped = s.trapped := by
  obtain ⟨u, hw, rfl⟩ := push32_ok h
  exact (memWrite_trapped hw :)

theorem pop32_trapped {s t : State} {v : Word} (h : pop32 s = .ok (v, t)) : t.trapped = s.trapped := by
  obtain ⟨u, g, hu, rfl⟩ := pop32_same h
  exact hu.trapped

theorem writeCr_trapped {s t : State} {n : BitVec 3} {v : Word} (h : writeCr s n v = some (.ok t)) :
    t.trapped = s.trapped := by
  obtain ⟨-, rfl⟩ | rfl | rfl := writeCr_ok h <;> rfl

theorem writeDr_trapped {s t : State} {n : BitVec 3} {v : Word} (h : s.writeDr n v = some t) :
    t.trapped = s.trapped := by
  obtain ⟨d0, d1, d2, d3, rfl⟩ | ⟨-, rfl⟩ | rfl := writeDr_some h <;> rfl

theorem writeTr_trapped {s t : State} {n : BitVec 3} {v : Word} (h : s.writeTr n v = some t) :
    t.trapped = s.trapped := by rw [writeTr_some h]

/-- The operation either halts in an instruction's own way or answers a state with the trap cause of `s`. -/
structure Precise (s : State) (r : Op State) : Prop where
  halts : HaltsOfInstr r
  keeps : ∀ t, r = .ok t → t.trapped = s.trapped

section
variable {s t u : State} {r : Op State}

theorem Precise.ok (h : u.trapped = s.trapped) : Precise s (.ok u) :=
  ⟨.ok u, by rintro _ ⟨⟩; exact h⟩

theorem Precise.retired {n : Nat} (h : u.trapped = s.trapped) : Precise s (.ok (u.retire n)) := .ok h

theorem Precise.error {h : Halt} (hh : h.OfInstr) : Precise s (.error h) := ⟨.error hh, nofun⟩

/-- What follows an operation need only be looked at where that operation answers. -/
theorem Precise.bind {α : Type} {x : Op α} {f : α → Op State} (hx : HaltsOfInstr x)
    (hf : ∀ a, x = .ok a → Precise s (f a)) : Precise s (x >>= f) := by
  constructor
  · intro h hh
    obtain hh | ⟨a, ha, hh⟩ := (bind_eq_error x f h).mp hh
    · exact hx h hh
    · exact (hf a ha).halts h hh
  · intro t ht
    obtain ⟨a, ha, ht⟩ := (bind_eq_ok x f t).mp ht
    exact (hf a ha).keeps t ht

theorem Precise.afterAccess {g : RegGroup} {d : Direction} (hr : Precise s r) :
    Precise s (requireAccess s g d >>= fun _ => r) :=
  .bind (haltsOfInstr_requireAccess s g d) fun _ _ => hr

theorem Precise.afterIo (hr : Precise s r) : Precise s (requireIo s >>= fun _ => r) :=
  .bind (haltsOfInstr_requireIo s) fun _ _ => hr

theorem precise_returnFrame (s : State) : Precise s (returnFrame s) := by
  refine .bind (haltsOfInstr_pop32 _) fun (_, _) h1 => .bind (haltsOfInstr_pop32 _) fun (_, _) h2 =>
    .bind (haltsOfInstr_pop32 _) fun (_, _) h3 => ?_
  have hpops := (pop32_trapped h3).trans ((pop32_trapped h2).trans (pop32_trapped h1))
  dsimp only
  split
  · exact .error trivial
  · refine .bind (haltsOfInstr_loadSelector _ _ _ _) fun (_, _, _) hload => ?_
    dsimp only
    split
    · exact .error trivial
    · exact .ok ((loadSelector_ok hload).1.trapped.trans hpops)

/-- Every instruction concludes from precise operations. -/
theorem exec_eq_conclude (i : Instr) (s : State) : ∃ r, Precise s r ∧ exec i s = conclude s r := by
  cases i with
  | jmpFar | callFar | intImm => exact ⟨.error (.refuse .controlTransferNotInSource), .error trivial, rfl⟩
  | inAlImm | inEaxImm | outImmAl | outImmEax | inAlDx | inEaxDx | outDxAl | outDxEax =>
    refine ⟨_, ?_, rfl⟩
    exact .afterIo (.retired rfl)
  | lmsw | sldt | str =>
    refine ⟨_, ?_, rfl⟩
    exact .afterAccess (.retired rfl)
  | pushf =>
    refine ⟨_, .afterAccess (.bind (haltsOfInstr_push32 _ _) fun _ hpush => .retired ?_), rfl⟩
    exact (push32_trapped hpush).trans (pushfValue_same s).trapped
  | popf => exact ⟨_, .afterAccess (.bind (haltsOfInstr_pop32 _) fun (_, _) hpop => .ok (pop32_trapped hpop :)), rfl⟩
  | lgdt | lidt =>
    refine ⟨_, .afterAccess (.bind (haltsOfInstr_memRead _ _ _ _) fun (_, _) hread => ?_), rfl⟩
    exact .retired (memRead_ok hread).1.trapped
  | sgdt | sidt =>
    refine ⟨_, .afterAccess (.bind (haltsOfInstr_memWrite _ _ _ _) fun _ hwrite => ?_), rfl⟩
    exact .retired (memWrite_trapped hwrite)
  | lldt | ltr =>
    refine ⟨_, .afterAccess (.bind (haltsOfInstr_loadSystem _ _ _) fun (_, _) hload => ?_), rfl⟩
    exact .retired (loadSystem_ok hload).trapped
  | iret =>
    refine ⟨_, ?_, rfl⟩
    split
    · exact .error trivial
    · split
      · exact .error trivial
      · exact precise_returnFrame s
  | wait | movR16Seg =>
    refine ⟨_, ?_, rfl⟩
    split
    · exact .error trivial
    · exact .retired rfl
  | esc =>
    refine ⟨_, ?_, rfl⟩
    split <;> exact .error trivial
  | movSegR16 =>
    refine ⟨_, ?_, rfl⟩
    split
    · exact .error trivial
    · split
      · exact .error trivial
      · exact .bind (haltsOfInstr_loadSelector _ _ _ _) fun (_, _, _) hload =>
          .retired (loadSelector_ok hload).1.trapped
  | movR32Cr =>
    refine ⟨_, ?_, rfl⟩
    split
    · exact .error trivial
    · next hread => exact .afterAccess (.retired (readCr_some hread).trapped)
  | movR32Dr | movR32Tr =>
    refine ⟨_, ?_, rfl⟩
    split
    · exact .error trivial
    · exact .afterAccess (.retired rfl)
  | movCrR32 =>
    refine ⟨_, ?_, rfl⟩
    split
    · exact .error trivial
    · next hwrite =>
      exact .afterAccess (.bind (haltsOfInstr_writeCr hwrite) fun _ hw => .retired (writeCr_trapped (hw ▸ hwrite)))
  | movDrR32 =>
    refine ⟨_, ?_, rfl⟩
    split
    · exact .error trivial
    · next hwrite => exact .afterAccess (.retired (writeDr_trapped hwrite))
  | movTrR32 =>
    refine ⟨_, ?_, rfl⟩
    split
    · exact .error trivial
    · next hwrite => exact .afterAccess (.retired (writeTr_trapped hwrite))

/-- An instruction with a next state keeps the trap cause, or raises a cause of its own in the state it started in
(R214, R220). -/
theorem exec_keeps_or_raises {i : Instr} (h : exec i s = .next t) :
    t.trapped = s.trapped ∨ ∃ c : TrapCause, c.OfInstr ∧ t = s.takeException c := by
  obtain ⟨r, hr, he⟩ := exec_eq_conclude i s
  obtain hok | ⟨c, herr, ht⟩ := (conclude_next_iff s t r).mp (he.symm.trans h)
  · exact .inl (hr.keeps t hok)
  · exact .inr ⟨c, hr.halts _ herr, ht⟩

end

/-- Settles O45: what an instruction raises is raised in the state it started in, and only a page miss writes CR2. -/
theorem exceptionsArePrecise : Obligations.ExceptionsArePrecise := by
  intro s t i hs h ht
  obtain hkept | ⟨c, hc, rfl⟩ := exec_keeps_or_raises h
  · exact absurd (hkept.trans hs) ht
  · cases c with
    | exc v => exact .inr ⟨v, rfl⟩
    | pageMiss a => exact .inl ⟨a, rfl⟩
    | debugException | externalInterrupt => exact hc.elim

end Sys2Proof.Machine
end

section
/-! PROOFS. The report of a debug exception, what ends a step before its fetch (O8, O53, O54, O59), what follows an
instruction (O6, O55, O56), and the task switch (O60). -/

namespace Sys2Proof.Machine

/-! ## Breakpoints by number -/

theorem mem_breakpoints {n : Nat} : n ∈ breakpoints ↔ n < 4 := by
  simp only [breakpoints, List.mem_cons, List.not_mem_nil, or_false]
  omega

/-- The B bits of breakpoint numbers are the bits at those numbers (R62). -/
theorem getLsbD_hitBits (ns : List Nat) {j : Nat} (hj : j < 32) : (hitBits ns).getLsbD j = decide (j ∈ ns) := by
  induction ns with
  | nil => simp [hitBits]
  | cons n ns ih =>
    have hbit : (1#32 <<< n).getLsbD j = decide (j = n) := by
      rw [← BitVec.twoPow_eq, BitVec.getLsbD_twoPow]
      by_cases h : j = n
      · subst h
        simp [hj]
      · simp [h, Ne.symm h]
    simp [hitBits, hbit, ih]

section
variable {s : State} {n : Nat}

theorem State.enabledUndefined_iff :
    s.enabledUndefined = true ↔ ∃ n < 4, s.breakEnabled n = true ∧ s.breakUndefined n = true := by
  simp [State.enabledUndefined, mem_breakpoints]

/-- The four undefined configurations (R57, R58, R59, R206). -/
theorem State.breakUndefined_iff :
    s.breakUndefined n = true ↔
      s.breakKind n = 2 ∨ s.breakLenCode n = 2 ∨ (s.breakKind n = 0 ∧ s.breakLenCode n ≠ 0) ∨
        (s.breakAddr n).toNat % lenBytes (s.breakLenCode n) ≠ 0 := by
  simp [State.breakUndefined, or_assoc]

/-- A breakpoint in a defined configuration is hit by an execution when it is an execution breakpoint at that address
(R58, R206). -/
theorem State.mem_execHits_iff {ia : Word} (hn : n < 4) (hdef : s.breakUndefined n = false) :
    n ∈ s.execHits ia ↔ s.breakKind n = 0 ∧ s.breakAddr n = ia := by
  have hlen : s.breakKind n = 0 → s.breakLenCode n = 0 := fun hk => by
    by_contra hl
    rw [State.breakUndefined_iff.mpr (.inr (.inr (.inl ⟨hk, hl⟩)))] at hdef
    cases hdef
  simp only [State.execHits, List.mem_filter, mem_breakpoints, hn, Bool.and_eq_true, beq_iff_eq, true_and]
  exact ⟨fun ⟨⟨hk, _⟩, ha⟩ => ⟨hk, ha⟩, fun ⟨hk, ha⟩ => ⟨⟨hk, hlen hk⟩, ha⟩⟩

theorem State.mem_dataHits_iff {xs : List DataAccess} :
    n ∈ s.dataHits xs ↔ n < 4 ∧ xs.any (s.dataCond n) = true := by
  rw [State.dataHits, List.mem_filter, mem_breakpoints]

/-- Some enabled breakpoint is hit by the accesses (R206). -/
theorem State.dataHits_any_enabled_iff {xs : List DataAccess} :
    (s.dataHits xs).any s.breakEnabled = true ↔
      ∃ n < 4, s.breakEnabled n = true ∧ ∃ x ∈ xs, s.dataCond n x = true := by
  simp only [List.any_eq_true, State.mem_dataHits_iff]
  exact ⟨fun ⟨n, ⟨hn, hx⟩, he⟩ => ⟨n, hn, he, hx⟩, fun ⟨n, hn, he, hx⟩ => ⟨n, ⟨hn, hx⟩, he⟩⟩

end

/-! ## The report of a debug exception -/

/-- `u` is `s` after a debug exception that reports `bits`: DR6 gains them and, by a free value, B bits of breakpoints
in an undefined configuration; it loses none, and nothing else changes but the trap cause and the draw count (R63,
R206). -/
structure Reports (s u : State) (bits : Word) : Prop where
  frame : u = { s with trapped := some .debugException, dr6 := u.dr6, draws := u.draws }
  bit : ∀ j < 32, (j < 4 → s.breakUndefined j = false) → u.dr6.getLsbD j = (s.dr6.getLsbD j || bits.getLsbD j)
  stays : ∀ j < 32, s.dr6.getLsbD j = true → u.dr6.getLsbD j = true
  draws : (∀ n < 4, s.breakUndefined n = false) → u.draws = s.draws

/-- The free part of a report lies at the B bits of breakpoints in an undefined configuration (R206). -/
theorem reportDebug_free (s : State) (bits : Word) :
    ∃ free : Word, (∀ j < 32, free.getLsbD j = true → j < 4 ∧ s.breakUndefined j = true) ∧
      (s.reportDebug bits).dr6 = s.dr6 ||| bits ||| free := by
  cases hu : s.undefinedHits with
  | nil => exact ⟨0, by simp, by simp [State.reportDebug, hu]⟩
  | cons n ns =>
    refine ⟨(s.anyBits 4).setWidth 32 &&& hitBits (n :: ns), fun j hj hfree => ?_, by simp [State.reportDebug, hu]⟩
    rw [BitVec.getLsbD_and, getLsbD_hitBits _ hj, Bool.and_eq_true, decide_eq_true_eq, ← hu] at hfree
    obtain ⟨hmem, hundef⟩ := List.mem_filter.mp hfree.2
    exact ⟨mem_breakpoints.mp hmem, hundef⟩

theorem reports_takeDebug (s : State) (bits : Word) : Reports s (s.takeDebug bits) bits := by
  obtain ⟨free, hfree, hdr6⟩ := reportDebug_free s bits
  have hbit (j : Nat) : (s.takeDebug bits).dr6.getLsbD j = (s.dr6.getLsbD j || bits.getLsbD j || free.getLsbD j) := by
    rw [takeDebug_eq, ← BitVec.getLsbD_or, ← BitVec.getLsbD_or, ← hdr6]
  refine ⟨?_, fun j hj hdef => ?_, fun j _ hset => ?_, fun hdef => ?_⟩
  · rw [takeDebug_eq]
  · have hnone : free.getLsbD j = false := by
      refine Bool.eq_false_iff.mpr fun hset => ?_
      obtain ⟨h4, hundef⟩ := hfree j hj hset
      rw [hdef h4] at hundef
      cases hundef
    rw [hbit, hnone, Bool.or_false]
  · rw [hbit, hset]
    rfl
  · have hnil : s.undefinedHits = [] :=
      List.filter_eq_nil_iff.mpr fun n hn => by simp [hdef n (mem_breakpoints.mp hn)]
    rw [takeDebug_eq, State.reportDebug, hnil]

/-- A report leaves every breakpoint's configuration as it was. -/
theorem Reports.breakUndefined {s u : State} {bits : Word} (h : Reports s u bits) (n : Nat) :
    u.breakUndefined n = s.breakUndefined n := by
  rw [h.frame]
  rfl

/-! ## What ends a step before the fetch -/

section
variable {s : State}

theorem step_of_beforeFetch {o : Outcome} (h : beforeFetch s = some o) : step s = o := by
  rw [step, h]

theorem beforeFetch_interrupt (htrap : s.trapped = none) (hif : s.ifl = true) (hintr : s.intrNow = true) :
    beforeFetch s = some (.next (s.takeException .externalInterrupt)) := by
  simp [beforeFetch, htrap, hif, hintr]

/-- Where no interrupt is taken the breakpoints decide (R219 step 2). -/
theorem beforeFetch_uninterrupted (htrap : s.trapped = none) (hno : s.ifl = true → s.intrNow = false) :
    beforeFetch s =
      if s.enabledUndefined then some (.refused .undefinedBreakpoint)
      else if !s.rf && (s.execHits (s.fetchLinear 0)).any s.breakEnabled then
        some (.next (s.takeDebug (hitBits (s.execHits (s.fetchLinear 0)))))
      else none := by
  have hnone : (s.ifl && s.intrNow) = false := by
    cases hif : s.ifl with
    | false => rfl
    | true => rw [hno hif, Bool.and_false]
  simp [beforeFetch, htrap, hnone]

end

/-- Settles O8: the trap cause is looked at first. -/
theorem trappedHasNoStep : Obligations.TrappedHasNoStep := by
  intro s c h
  exact step_of_beforeFetch (by simp [beforeFetch, h])

/-- Settles O59: the configuration is one of `breakUndefined`, which is asked before the fetch. -/
theorem undefinedBreakpointStops : Obligations.UndefinedBreakpointStops := by
  intro s htrap hno ⟨n, hn, henabled, hconf⟩
  have hundef := State.enabledUndefined_iff.mpr ⟨n, hn, henabled, State.breakUndefined_iff.mpr hconf⟩
  exact step_of_beforeFetch ((beforeFetch_uninterrupted htrap hno).trans (if_pos hundef))

/-- Settles O54: the enabled breakpoint is among those hit, all of which are reported. -/
theorem instructionBreakpointFaults : Obligations.InstructionBreakpointFaults := by
  intro s htrap hno hdef hrf ⟨n, hn, henabled, hkind, haddr⟩
  have hdefined : ¬ s.enabledUndefined = true := fun h => by
    obtain ⟨m, hm, hen, hundef⟩ := State.enabledUndefined_iff.mp h
    rw [hdef m hm hen] at hundef
    cases hundef
  have hhit : (!s.rf && (s.execHits (s.fetchLinear 0)).any s.breakEnabled) = true := by
    rw [hrf, Bool.not_false, Bool.true_and, List.any_eq_true]
    exact ⟨n, (State.mem_execHits_iff hn (hdef n hn henabled)).mpr ⟨hkind, haddr⟩, henabled⟩
  have hbefore := beforeFetch_uninterrupted htrap hno
  rw [if_neg hdefined, if_pos hhit] at hbefore
  have hreport := reports_takeDebug s (hitBits (s.execHits (s.fetchLinear 0)))
  refine ⟨_, step_of_beforeFetch hbefore, hreport.frame, fun m hm hmdef => ?_, hreport.stays, fun j hj h4 => ?_,
    hreport.draws⟩
  · rw [hreport.bit m (by omega) fun _ => hmdef, getLsbD_hitBits _ (by omega)]
    congr 1
    rw [Bool.eq_iff_iff]
    simp [State.mem_execHits_iff hm hmdef]
  · have hnot : j ∉ s.execHits (s.fetchLinear 0) := fun hhit =>
      absurd (mem_breakpoints.mp (List.mem_of_mem_filter hhit)) (Nat.not_lt.mpr h4)
    rw [hreport.bit j hj fun h => absurd h (Nat.not_lt.mpr h4), getLsbD_hitBits _ hj, decide_eq_false hnot,
      Bool.or_false]

/-! ## What follows an instruction -/

section
variable {s t : State}

/-- The causes of a debug trap after an instruction: TF at its start, or an enabled data breakpoint that it hit
(R205, R206). -/
def DebugTrapDue (s : State) (i : Instr) (t : State) : Prop :=
  s.tf = true ∨ ∃ n < 4, t.breakEnabled n = true ∧ ∃ x ∈ dataAccesses i s, t.dataCond n x = true

theorem debugTrapDue_iff {i : Instr} :
    DebugTrapDue s i t ↔ (s.tf || (t.dataHits (dataAccesses i s)).any t.breakEnabled) = true := by
  rw [Bool.or_eq_true, State.dataHits_any_enabled_iff]
  rfl

/-- What a debug trap after an instruction reports: BS for single step, and the B bits of the breakpoints hit (R205,
R206). -/
def trapBits (tf : Bool) (hits : List Nat) : Word := (if tf then bsBit else 0) ||| hitBits hits

theorem afterInstr_trap {i : Instr} (h : DebugTrapDue s i t) :
    afterInstr s i t = t.takeDebug (trapBits s.tf (t.dataHits (dataAccesses i s))) :=
  if_pos (debugTrapDue_iff.mp h)

theorem afterInstr_boundary {i : Instr} (h : ¬ DebugTrapDue s i t) : afterInstr s i t = t.nextBoundary :=
  if_neg (mt debugTrapDue_iff.mpr h)

/-- BS is bit 14, and each B bit is at its breakpoint's number (R62, R65). -/
theorem getLsbD_trapBits (tf : Bool) (hits : List Nat) {j : Nat} (hj : j < 32) :
    (trapBits tf hits).getLsbD j = ((tf && decide (j = 14)) || decide (j ∈ hits)) := by
  have hbs : ∀ j < 32, bsBit.getLsbD j = decide (j = 14) := by decide
  rw [trapBits, BitVec.getLsbD_or, getLsbD_hitBits _ hj]
  cases tf with
  | false => simp
  | true => simp [hbs j hj]

/-- A step whose instruction completes goes on to what follows it (R219 step 6). -/
theorem step_completed {s1 : State} {i : Instr} (hr : s.ReadyToFetch) (hf : fetch s = .ok (i, s1))
    (he : exec i s1 = .next t) (ht : t.trapped = none) : step s = .next (afterInstr s1 i t) := by
  rw [step_of_fetch_ok hr hf, he]
  simp [finishStep, ht]

theorem State.SameButTlb.tf {u : State} (h : s.SameButTlb u) : u.tf = s.tf := by
  rw [h]
  rfl

/-- A debug trap after an instruction: BS as TF was, the B bits of the data breakpoints hit, enabled or not, and no
other bit but a free one (R205, R206, R219 step 6). -/
theorem step_debug_trap {s1 : State} {i : Instr} (hr : s.ReadyToFetch) (hf : fetch s = .ok (i, s1))
    (he : exec i s1 = .next t) (ht : t.trapped = none) (hdue : DebugTrapDue s1 i t) :
    ∃ u, step s = .next u ∧ u = { t with trapped := some .debugException, dr6 := u.dr6, draws := u.draws } ∧
      u.dr6.getLsbD 14 = (t.dr6.getLsbD 14 || s.tf) ∧
      (∀ n < 4, t.breakUndefined n = false →
        u.dr6.getLsbD n = (t.dr6.getLsbD n || (dataAccesses i s1).any (t.dataCond n))) ∧
      (∀ j < 32, t.dr6.getLsbD j = true → u.dr6.getLsbD j = true) ∧
      (∀ j < 32, 4 ≤ j → j ≠ 14 → u.dr6.getLsbD j = t.dr6.getLsbD j) ∧
      ((∀ n < 4, t.breakUndefined n = false) → u.draws = t.draws) := by
  have hstep := step_completed hr hf he ht
  rw [afterInstr_trap hdue] at hstep
  obtain ⟨hframe, hbit, hstays, hdraws⟩ := reports_takeDebug t (trapBits s1.tf (t.dataHits (dataAccesses i s1)))
  have above {j : Nat} (hj : j < 32) (h4 : 4 ≤ j) := hbit j hj fun h => absurd h (Nat.not_lt.mpr h4)
  have not_hit {j : Nat} (h4 : 4 ≤ j) : j ∉ t.dataHits (dataAccesses i s1) := fun h =>
    absurd (State.mem_dataHits_iff.mp h).1 (Nat.not_lt.mpr h4)
  refine ⟨_, hstep, hframe, ?_, fun n hn hdef => ?_, hstays, fun j hj h4 h14 => ?_, hdraws⟩
  · rw [above (by decide) (by decide), getLsbD_trapBits _ _ (by decide), (fetch_ok hf).tf]
    simp [not_hit]
  · have h14 : n ≠ 14 := by omega
    rw [hbit n (by omega) fun _ => hdef, getLsbD_trapBits _ _ (by omega)]
    congr 1
    rw [Bool.eq_iff_iff]
    simp [State.mem_dataHits_iff, hn, h14]
  · rw [above hj h4, getLsbD_trapBits _ _ hj]
    simp [not_hit h4, h14]

end

/-- Settles O56: an enabled breakpoint that was hit makes the trap due. -/
theorem dataBreakpointTrapsAfterInstruction : Obligations.DataBreakpointTrapsAfterInstruction :=
  fun _ _ _ _ hr hf he ht hhit => step_debug_trap hr hf he ht (.inr hhit)

/-- Settles O55: TF makes the trap due, and BS is set. -/
theorem singleStepTrapsAfterInstruction : Obligations.SingleStepTrapsAfterInstruction := by
  intro s s1 t i hr hf htf he ht
  have hdue : DebugTrapDue s1 i t := .inl ((fetch_ok hf).tf.trans htf)
  obtain ⟨u, hstep, hframe, hbs, hrest⟩ := step_debug_trap hr hf he ht hdue
  rw [htf, Bool.or_true] at hbs
  exact ⟨u, hstep, hframe, hbs, hrest⟩

/-- Settles O6: after the fetch the step is `finishStep` of the instruction's outcome, and a fetch that halts ends
it. -/
theorem stepRunsFetchedInstruction : Obligations.StepRunsFetchedInstruction := by
  intro s hr
  refine ⟨fun s1 i hf => ?_, fun v hf => step_of_fetch_error hr hf, fun a hf => step_of_fetch_error hr hf,
    fun f hf => step_of_fetch_error hr hf, fun r hf => step_of_fetch_error hr hf⟩
  have hstep := step_of_fetch_ok hr hf
  refine ⟨fun f he => ?_, fun r he => ?_, fun t he htrap => ?_, fun t he ht htf hno => ?_, fun t he ht hcause => ?_⟩
  · rw [hstep, he]
    rfl
  · rw [hstep, he]
    rfl
  · rw [hstep, he, finishStep, if_pos (Option.isSome_iff_ne_none.mpr htrap)]
  · have hdue : ¬ DebugTrapDue s1 i t := by
      rintro (h | ⟨n, hn, henabled, x, hx, hcond⟩)
      · rw [(fetch_ok hf).tf, htf] at h
        cases h
      · rw [hno n hn henabled x hx] at hcond
        cases hcond
    rw [step_completed hr hf he ht, afterInstr_boundary hdue]
    rfl
  · have hdue : DebugTrapDue s1 i t := hcause.imp_left (fetch_ok hf).tf.trans
    obtain ⟨u, hu, hframe, -⟩ := step_debug_trap hr hf he ht hdue
    exact ⟨u, hu, by rw [hframe], by rw [hframe]⟩

/-! ## Interrupts -/

section
variable {s t : State}

theorem haltsOfInstr_readPhys (s : State) (a : Nat) : HaltsOfInstr (readPhys s a) := by
  unfold readPhys
  split
  · split
    · exact .ok _
    · exact .error trivial
  · exact .error trivial

theorem haltsOfInstr_fetchByte (s : State) (k : Nat) : HaltsOfInstr (fetchByte s k) :=
  (haltsOfInstr_checkSeg _ _ _ _ _).bind fun _ => (haltsOfInstr_translate _ _ _).bind fun _ =>
    .ite (.error trivial) ((haltsOfInstr_readPhys _ _).bind fun _ => .ok _)

theorem haltsOfInstr_fetchFrom (s : State) (got : List Byte) (fuel : Nat) : HaltsOfInstr (fetchFrom s got fuel) := by
  induction fuel generalizing s got with
  | zero => exact .error trivial
  | succ fuel ih =>
    refine (haltsOfInstr_fetchByte _ _).bind fun (b, s1) => ?_
    dsimp only
    split
    · exact .ok _
    · exact ih _ _
    · exact .error trivial

theorem takeException_not_interrupt {c : TrapCause} (hc : c.OfInstr) :
    (s.takeException c).trapped ≠ some .externalInterrupt := by
  rw [State.takeException_trapped]
  rintro ⟨⟩
  exact hc

theorem takeDebug_not_interrupt (bits : Word) : (s.takeDebug bits).trapped ≠ some .externalInterrupt := by
  rw [takeDebug_eq]
  simp

/-- What is executed after the fetch takes no interrupt (R219 steps 4 to 6). -/
theorem finishStep_not_interrupt {i : Instr} (hs : s.trapped = none) (h : finishStep s i (exec i s) = .next t) :
    t.trapped ≠ some .externalInterrupt := by
  unfold finishStep at h
  split at h
  case h_1 u he =>
    obtain hkept | ⟨c, hc, rfl⟩ := exec_keeps_or_raises he
    · rw [if_neg (by simp [hkept, hs])] at h
      cases h
      obtain ⟨bits, -, hu⟩ | hu := afterInstr_eq s u i
      · rw [hu]
        exact takeDebug_not_interrupt bits
      · rw [hu, State.nextBoundary_trapped, hkept, hs]
        simp
    · rw [if_pos (by simp)] at h
      cases h
      exact takeException_not_interrupt hc
  case h_2 | h_3 => cases h

end

/-- Settles O53: the interrupt is asked for first; past that point the step takes debug exceptions and those that the
fetch or the instruction raises, none of which is an interrupt. -/
theorem interruptTakenOnlyWithIf : Obligations.InterruptTakenOnlyWithIf := by
  intro s htrap
  refine ⟨fun hif hintr => step_of_beforeFetch (beforeFetch_interrupt htrap hif hintr), fun hno t h => ?_⟩
  have hbefore := beforeFetch_uninterrupted htrap fun hif => hno.resolve_left (by simp [hif])
  unfold step at h
  split at h
  case h_1 o ho =>
    subst h
    rw [hbefore] at ho
    split at ho
    · cases ho
    · split at ho
      · cases ho
        exact takeDebug_not_interrupt _
      · cases ho
  case h_2 =>
    split at h
    case h_1 i s1 hf => exact finishStep_not_interrupt ((fetch_ok hf).trapped.trans htrap) h
    case h_2 x hf =>
      obtain hok | ⟨c, herr, rfl⟩ := (conclude_next_iff _ _ _).mp h
      · cases hok
      · cases herr
        exact takeException_not_interrupt (haltsOfInstr_fetchFrom _ _ _ _ hf)

/-! ## The task switch -/

/-- The implemented bits of EFLAGS (R21). -/
theorem getLsbD_eflagsMask :
    ∀ i < 32, eflagsMask.getLsbD i = decide (i = 1 ∨ i ∈ [0, 2, 4, 6, 7, 8, 9, 10, 11, 12, 13, 14, 16, 17]) := by decide

/-- The saved image shows every implemented flag, VM among them, and bit 1 (R215). -/
theorem getLsbD_savedFlagsImage (fl : Word) {i : Nat} (hi : i < 32) :
    (savedFlagsImage fl).getLsbD i =
      (i == 1 || (fl.getLsbD i && decide (i ∈ [0, 2, 4, 6, 7, 8, 9, 10, 11, 12, 13, 14, 16, 17]))) := by
  have hone : ∀ j < 32, (2 : Word).getLsbD j = (j == 1) := by decide
  rw [savedFlagsImage, BitVec.getLsbD_or, BitVec.getLsbD_and, getLsbD_eflagsMask i hi, hone i hi]
  by_cases h1 : i = 1
  · simp [h1]
  · simp only [h1, false_or, beq_false_of_ne h1, Bool.or_false, Bool.false_or]

/-- The flags of the incoming task are its image's implemented ones, with NT as the switch asks (R221). -/
theorem getLsbD_flagsAfterSwitch (image : Word) (nested : Bool) {i : Nat} (hi : i < 32) :
    (flagsAfterSwitch image nested).getLsbD i =
      if i = 14 then nested else if i = 1 then true
      else if i ∈ [0, 2, 4, 6, 7, 8, 9, 10, 11, 12, 13, 16, 17] then image.getLsbD i else false := by
  have hnt : ∀ j < 32, ntMask.getLsbD j = decide (j = 14) := by decide
  have himage : flagsAfterSwitch image nested =
      mergeBits (savedFlagsImage image) (if nested then ntMask else 0) ntMask := rfl
  rw [himage, getLsbD_mergeBits, hnt i hi, getLsbD_savedFlagsImage _ hi]
  by_cases h14 : i = 14
  · subst h14
    cases nested <;> rfl
  by_cases h1 : i = 1
  · simp [h1]
  have hlisted : i ∈ [0, 2, 4, 6, 7, 8, 9, 10, 11, 12, 13, 14, 16, 17] ↔
      i ∈ [0, 2, 4, 6, 7, 8, 9, 10, 11, 12, 13, 16, 17] := by simp [h14]
  rw [if_neg (by simpa using h14), if_neg h14, if_neg h1, beq_false_of_ne h1, Bool.false_or]
  by_cases himplemented : i ∈ [0, 2, 4, 6, 7, 8, 9, 10, 11, 12, 13, 16, 17]
  · rw [if_pos himplemented, decide_eq_true (hlisted.mpr himplemented), Bool.and_true]
  · rw [if_neg himplemented, decide_eq_false (mt hlisted.mp himplemented), Bool.and_false]

theorem getLsbD_dr7AfterSwitch (dr7 : Word) {i : Nat} (hi : i < 32) :
    (dr7AfterSwitch dr7).getLsbD i = (dr7.getLsbD i && !(i == 0 || i == 2 || i == 4 || i == 6)) := by
  have hlocal : ∀ j < 32, (0x55 : Word).getLsbD j = (j == 0 || j == 2 || j == 4 || j == 6) := by decide
  rw [dr7AfterSwitch, BitVec.getLsbD_and, BitVec.getLsbD_not, hlocal i hi]
  simp [hi]

section
variable (s : State) (t : TaskImage) (nested : Bool) (newCr3 : Option (BitVec 20))

/-- The debug trap of a switch touches DR6, the draw count and the trap cause; all else is the loaded task (R221). -/
theorem switchTask_eq : s.switchTask t nested newCr3 = { s.loadTask t nested newCr3 with
    dr6 := (s.switchTask t nested newCr3).dr6, draws := (s.switchTask t nested newCr3).draws,
    trapped := (s.switchTask t nested newCr3).trapped } := by
  unfold State.switchTask
  dsimp only
  split
  · rw [takeDebug_eq]
  · rfl

theorem switchTask_untrapped (h : t.debugTrap = false) :
    s.switchTask t nested newCr3 = s.loadTask t nested newCr3 := by
  simp [State.switchTask, h]

theorem switchTask_reports (h : t.debugTrap = true) :
    Reports (s.loadTask t nested newCr3) (s.switchTask t nested newCr3) btBit := by
  simp only [State.switchTask, h, if_true]
  exact reports_takeDebug _ _

end

/-- Settles O60: the loaded task field by field, and the report of BT where T is set. -/
theorem taskSwitchEffects : Obligations.TaskSwitchEffects := by
  intro s t nested newCr3 u
  have hu : u = _ := switchTask_eq s t nested newCr3
  have heflags : u.eflags = flagsAfterSwitch t.eflags nested := by rw [hu]; rfl
  have hcr0 : u.cr0 = s.cr0 ||| 8 := by rw [hu]; rfl
  have hdr7 : u.dr7 = dr7AfterSwitch s.dr7 := by rw [hu]; rfl
  have hts : ∀ j < 32, (8 : Word).getLsbD j = decide (j = 3) := by decide
  have hbt : ∀ j < 32, btBit.getLsbD j = decide (j = 15) := by decide
  refine ⟨?_, fun i hi => ?_, ?_, fun i hi h3 => ?_, fun i hi => ?_, fun hT => ?_, fun hT => ?_, rfl, rfl, rfl, rfl,
    rfl, rfl, fun i hi => getLsbD_savedFlagsImage s.eflags hi⟩
  · rw [hu]
    cases newCr3 <;> rfl
  · rw [heflags, getLsbD_flagsAfterSwitch _ _ hi]
  · rw [State.ts, hcr0, BitVec.getLsbD_or, hts 3 (by decide)]
    exact Bool.or_true _
  · rw [hcr0, BitVec.getLsbD_or, hts i hi, decide_eq_false h3, Bool.or_false]
  · rw [hdr7, getLsbD_dr7AfterSwitch _ hi]
  · have hreport : Reports (s.loadTask t nested newCr3) u btBit := switchTask_reports s t nested newCr3 hT
    have hsame (n : Nat) := hreport.breakUndefined n
    have above {j : Nat} (hj : j < 32) (h4 : 4 ≤ j) := hreport.bit j hj fun h => absurd h (Nat.not_lt.mpr h4)
    refine ⟨by rw [hreport.frame], ?_, fun n hn hdef => ?_, hreport.stays, fun j hj h4 h15 => ?_, fun hdef => ?_⟩
    · rw [above (by decide) (by decide), hbt 15 (by decide)]
      exact Bool.or_true _
    · have h15 : n ≠ 15 := by omega
      rw [hreport.bit n (by omega) fun _ => (hsame n).symm.trans hdef, hbt n (by omega), decide_eq_false h15,
        Bool.or_false]
      rfl
    · rw [above hj h4, hbt j hj, decide_eq_false h15, Bool.or_false]
      rfl
    · exact hreport.draws fun n hn => (hsame n).symm.trans (hdef n hn)
  · have hload : u = _ := switchTask_untrapped s t nested newCr3 hT
    rw [hload]
    exact ⟨rfl, rfl, rfl⟩

end Sys2Proof.Machine
end

section
/-! PROOFS. The coprocessor bits of CR0 after reset (O11). -/

namespace Sys2Proof.Machine

@[simp] theorem State.em_resetWith (is387 : Bool) : (State.resetWith is387).em = false := by
  cases is387 with
  | false => rfl
  | true => rfl

@[simp] theorem State.et_resetWith (is387 : Bool) : (State.resetWith is387).et = is387 := by
  cases is387 with
  | false => rfl
  | true => rfl

/-- Settles O11: the bits for each coprocessor type; the reset state is the one for the configured type. -/
theorem resetCoprocessorBits : Obligations.ResetCoprocessorBits :=
  ⟨fun is387 => ⟨State.em_resetWith is387, State.et_resetWith is387⟩,
    State.em_resetWith Config.coprocessorIs387, State.et_resetWith Config.coprocessorIs387⟩

end Sys2Proof.Machine
end
